-- ==== Sys2Proof/Word.lean ====
section
/-! DEFINITION. The word types of the DDRBC_U cipher engine (00_scope.md R10 to R12): Words of the instance's
width, Blocks of Words, bytes, and the 64-bit values the host interface carries. The arithmetic of R11 on Words
(addition and subtraction modulo `2^W`, exclusive-or, logical shifts) is `BitVec`'s own. -/

namespace Sys2Proof

/-- A Word of an instance of width `w` (R10): an unsigned integer in `0 .. 2^w - 1`. -/
abbrev Word (w : Nat) := BitVec w

/-- A Block (R12): a sequence of Words, index 0 first. -/
abbrev Block (w : Nat) := List (Word w)

/-- One byte of the IN or OUT stream (R118, R54). -/
abbrev Byte := BitVec 8

/-- A 64-bit register value as the host interface carries it (R58, R85). A register of `W` bits is held
zero-extended to 64 bits, the value a read returns. -/
abbrev Reg := BitVec 64

end Sys2Proof
end

