-- ==== Sys2Proof/Config.lean ====
section
/-! DEFINITION. What an instance fixes when it is built (00_scope.md R2, R8): word width, family, power-of-two
requirement and storage sizes; and the free values, for what the spec treats as `any value`
(93_implementation_defined.md U1 to U3). -/

namespace Sys2Proof

/-- The word widths an instance may have (R2). -/
inductive WordWidth where
  | w8
  | w16
  | w32
  | w64
deriving DecidableEq, Repr

/-- `W`, in bits (R2). -/
def WordWidth.bits : WordWidth → Nat
  | .w8 => 8
  | .w16 => 16
  | .w32 => 32
  | .w64 => 64

/-- The two round-function families (R2). -/
inductive Family where
  /-- Even-Mansour whitening around a keyless XOR-shift permutation. -/
  | em
  /-- RC5-style data-dependent rotation. -/
  | ddr
deriving DecidableEq, Repr

/-- The build parameters of one instance (R2, R8). They are data of the machine's state that no step changes, so
that a statement about every state is a statement about every instance. -/
structure Params where
  /-- `W` (R2). -/
  width : WordWidth
  /-- `FAMILY` (R2). -/
  family : Family
  /-- `P2REQ` (R2, R4). -/
  p2req : Bool
  /-- `N_MAX` (R8). -/
  nMax : Nat
  /-- `R_MAX` (R8). -/
  rMax : Nat
  /-- `L_MAX_BYTES` (R8). -/
  lMaxBytes : Nat
  /-- `IN_DEPTH` (R8). -/
  inDepth : Nat
  /-- `OUT_DEPTH` (R8). -/
  outDepth : Nat
deriving DecidableEq, Repr

/-- The word width in bits. -/
abbrev Params.bits (p : Params) : Nat := p.width.bits

/-- An instance of a given width and family with R8's default sizes. `P2REQ` is 1 in a DDR instance (R4). -/
def Params.withDefaults (w : WordWidth) (f : Family) : Params :=
  { width := w, family := f, p2req := f == .ddr, nMax := 16, rMax := 255, lMaxBytes := 256, inDepth := 16, outDepth := 16 }

/-- The instance `State.reset` is built as: W = 32, EM, P2REQ = 0, R8's default sizes.
DESIGN CHOICE (log 1): the spec gives `W`, `FAMILY` and `P2REQ` no default. -/
def Params.default : Params := Params.withDefaults .w32 .em

/-- The free values: word `idx` of the `draw`-th draw. It has no body, so nothing is known of any value of it
(U1, U2, U3; log 3 and log 4). -/
opaque Config.freeWord (draw idx : Nat) : BitVec 64

end Sys2Proof
end

