-- ==== Sys2Proof/Syntax.lean ====
section
/-! DEFINITION. The commands of the engine, one constructor per row of spec/opcode_table.json (30_encoding.md
R113); the IN tokens (R118); the names of the register map (20_memory.md R81); and the host's actions
(30_encoding.md R125 to R130). -/

namespace Sys2Proof

/-- A command (R113). Commands have no operand fields: every operand is implicit (R117). -/
inductive Instr where
  | nop
  | ksched
  | nseed
  | pwchk
  | pwver
  | mix
  | unmix
  | benc
  | bdec
  | menc
  | mdec
  | ninc
  | senc
  | sdec
deriving DecidableEq, Repr

/-- An IN token (R118). The BYTE field is kept for DATA only: it is ignored otherwise (log 22). -/
inductive Token where
  /-- KIND 00: a data byte. -/
  | data (b : Byte)
  /-- KIND 01: end of input. -/
  | eof
  /-- KIND 10: the host's read failed. -/
  | err
  /-- KIND 11: reserved; every command treats it as `err` (R119). -/
  | reserved
deriving DecidableEq, Repr

/-- A register of the map R81, or an unmapped index (R84). -/
inductive RegName where
  | id
  | param
  | ctrl
  | status
  | cfg
  | cmd
  | ema
  | kp
  | kq
  | blkcnt
  | incnt
  | outcnt
  | sidx
  | sdata
  | fifostat
  | inpush
  | outpop
  | blk (j : Nat)
  | nonce (j : Nat)
  | key (j : Nat)
  | pwc (j : Nat)
  | pwtag (j : Nat)
  | unmapped
deriving DecidableEq, Repr

/-- One action of a host program (R125, R126, R128, R130); the other actions of R127 and R129 abbreviate writes
(`Sys2Proof.Machine.pushToken` and its neighbours in Machine/HostProgram.lean). A register index is 12 bits: one outside
`0x000 .. 0xFFF` cannot be expressed (R85). -/
inductive HostAct where
  /-- `WR reg, value`. -/
  | wr (idx : BitVec 12) (value : Reg)
  /-- `RD reg -> name`. -/
  | rd (idx : BitVec 12)
  /-- `POLL reg, mask, value`: read until `(read & mask) = value`. -/
  | poll (idx : BitVec 12) (mask value : Reg)
  /-- `DRAIN`: read `OUTPOP` until `n` more reads have returned bit 8 = 1, with the bytes collected so far (none when the
  action starts), in order. -/
  | drain (n : Nat) (got : List Byte)
deriving DecidableEq, Repr

/-- What the host keeps of its reads (R126, R128, R130). -/
inductive HostResult where
  /-- The value one `RD`, or one read of a `POLL`, returned. -/
  | word (idx : BitVec 12) (value : Reg)
  /-- The byte string one `DRAIN` collected. -/
  | bytes (collected : List Byte)
deriving DecidableEq, Repr

/-- Who moves next: the interleaving of the agents' steps (R93) is data of the state (log 5). -/
inductive Turn where
  /-- The host performs its next access. -/
  | host
  /-- The sequencer takes an engine step. -/
  | engine
  /-- The platform asserts the reset input (R320). -/
  | resetInput
deriving DecidableEq, Repr

end Sys2Proof
end

