-- ==== Sys2Proof/WellFormed.lean ====
section
/-! DEFINITION. Which commands an instance has (30_encoding.md R111, R113, R116), and which build parameters are
legal (00_scope.md R2, R4, R8). -/

namespace Sys2Proof

/-- The command is available in the instance's FAMILY (R111, R113): `MIX` and `UNMIX` exist in EM instances
only. -/
def Instr.wellFormed (p : Params) : Instr → Bool
  | .nop => true
  | .ksched => true
  | .nseed => true
  | .pwchk => true
  | .pwver => true
  | .mix => p.family == .em
  | .unmix => p.family == .em
  | .benc => true
  | .bdec => true
  | .menc => true
  | .mdec => true
  | .ninc => true
  | .senc => true
  | .sdec => true

/-- R8: `N_MAX` is 2 to 256. -/
def Params.nMaxLegal (p : Params) : Bool := 2 ≤ p.nMax && p.nMax ≤ 256

/-- R8: `R_MAX` is 1 to 65535. -/
def Params.rMaxLegal (p : Params) : Bool := 1 ≤ p.rMax && p.rMax ≤ 65535

/-- R8: `L_MAX_BYTES` is a multiple of `W/8`, 8 to 65535. -/
def Params.lMaxLegal (p : Params) : Bool :=
  8 ≤ p.lMaxBytes && p.lMaxBytes ≤ 65535 && p.lMaxBytes % (p.bits / 8) == 0

/-- R8: `IN_DEPTH` is 1 to 65535. -/
def Params.inDepthLegal (p : Params) : Bool := 1 ≤ p.inDepth && p.inDepth ≤ 65535

/-- R8: `OUT_DEPTH` is 1 to 65535. -/
def Params.outDepthLegal (p : Params) : Bool := 1 ≤ p.outDepth && p.outDepth ≤ 65535

/-- R4: `P2REQ` is 1 in every DDR instance. -/
def Params.p2reqLegal (p : Params) : Bool := p.family == .em || p.p2req

/-- The build parameters are those of an instance the spec allows (R2, R4, R8). -/
def Params.wellFormed (p : Params) : Bool :=
  p.nMaxLegal && p.rMaxLegal && p.lMaxLegal && p.inDepthLegal && p.outDepthLegal && p.p2reqLegal

end Sys2Proof
end

