-- ==== Sys2Proof/Decode.lean ====
section
/-! DEFINITION. The decoder of command words and the encoder beside it (30_encoding.md R110 to R116), the token
format (R118), and the register map both ways (20_memory.md R81, R84). -/

namespace Sys2Proof

/-- Why a word is no command of the instance (R111, R115). -/
inductive DecodeError where
  /-- `RSV`, bits [63:8], is not 0. -/
  | reservedBitsSet
  /-- `OP` is none of the opcodes of R113. -/
  | opcodeUnassigned
  /-- The opcode is not available in the instance's FAMILY. -/
  | notInFamily
deriving DecidableEq, Repr

/-- The opcode map of R113, in its order. -/
def opcodeTable : List (BitVec 8 × Instr) :=
  [(0x00, .nop), (0x01, .ksched), (0x02, .nseed), (0x03, .pwchk), (0x04, .pwver),
   (0x10, .mix), (0x11, .unmix), (0x12, .benc), (0x13, .bdec),
   (0x20, .menc), (0x21, .mdec), (0x22, .ninc),
   (0x30, .senc), (0x31, .sdec)]

/-- The command an opcode selects, FAMILY apart (R113). -/
def ofOpcode (op : BitVec 8) : Option Instr :=
  (opcodeTable.find? (fun row => row.1 == op)).map (·.2)

/-- Field `RSV` of a command word (R110). -/
def cmdRsv (v : Reg) : BitVec 56 := v.extractLsb' 8 56

/-- Field `OP` of a command word (R110). -/
def cmdOp (v : Reg) : BitVec 8 := v.extractLsb' 0 8

/-- The decoder (R111, R112): a word is legal exactly when RSV = 0, OP is in the table and the opcode is
available in the instance's FAMILY. -/
def decode (p : Params) (v : Reg) : Except DecodeError Instr :=
  if cmdRsv v ≠ 0 then .error .reservedBitsSet
  else
    match ofOpcode (cmdOp v) with
    | none => .error .opcodeUnassigned
    | some i => if i.wellFormed p then .ok i else .error .notInFamily

/-- The opcode of each command (R113), written out apart from the decoder's table. -/
def Instr.opcode : Instr → BitVec 8
  | .nop => 0x00
  | .ksched => 0x01
  | .nseed => 0x02
  | .pwchk => 0x03
  | .pwver => 0x04
  | .mix => 0x10
  | .unmix => 0x11
  | .benc => 0x12
  | .bdec => 0x13
  | .menc => 0x20
  | .mdec => 0x21
  | .ninc => 0x22
  | .senc => 0x30
  | .sdec => 0x31

/-- The encoder: the 64-bit word of a command (R110), `RSV = 0` and the opcode below it. -/
def encode (i : Instr) : Reg := (0 : BitVec 56) ++ i.opcode

/-- The 64-bit command word whose lowest `nbits` bits are `w`'s, every bit above them 0. -/
def tableWord (nbits w : Nat) : Reg := BitVec.ofNat 64 (w % 2 ^ nbits)

/-- What the decoder reads from a word of spec/opcode_table.json, in the instance of `State.reset` (an EM
instance, so that every row is available). A word of more than 64 bits is none (R110). -/
def decodeTableWord (nbits w : Nat) : Option Instr :=
  if w % 2 ^ nbits < 2 ^ 64 then
    match decode Params.default (tableWord nbits w) with
    | .ok i => some i
    | .error _ => none
  else none

/-- The IN token of `INPUSH` bits [9:0] (R118): KIND in [9:8], BYTE in [7:0]. -/
def tokenOfBits (v : BitVec 10) : Token :=
  match (v.extractLsb' 8 2).toNat with
  | 0 => .data (v.extractLsb' 0 8)
  | 1 => .eof
  | 2 => .err
  | _ => .reserved

/-- The encoding of a token (R118): a data byte `b` is `0x000 | b`, EOF `0x100`, ERR `0x200`; of the reserved
tokens 0x300 to 0x3FF, the first. -/
def tokenBits : Token → BitVec 10
  | .data b => (0 : BitVec 2) ++ b
  | .eof => 0x100
  | .err => 0x200
  | .reserved => 0x300

/-- Indices 0x000 to 0x0FF of the register map (R81). -/
def controlReg : Nat → RegName
  | 0x00 => .id
  | 0x01 => .param
  | 0x02 => .ctrl
  | 0x03 => .status
  | 0x04 => .cfg
  | 0x05 => .cmd
  | 0x06 => .ema
  | 0x07 => .kp
  | 0x08 => .kq
  | 0x09 => .blkcnt
  | 0x0A => .incnt
  | 0x0B => .outcnt
  | 0x0C => .sidx
  | 0x0D => .sdata
  | 0x0E => .fifostat
  | 0x0F => .inpush
  | 0x10 => .outpop
  | _ => .unmapped

/-- The register an index names (R81); every index the map does not list is unmapped, those of block words
`j ≥ N_MAX` among them (R84). -/
def regOf (p : Params) (idx : BitVec 12) : RegName :=
  let j := idx.toNat % 256
  match idx.toNat / 256 with
  | 0 => controlReg j
  | 1 => if j < p.nMax then .blk j else .unmapped
  | 2 => if j < p.nMax then .nonce j else .unmapped
  | 3 => if j < p.nMax then .key j else .unmapped
  | 4 => if j < p.nMax then .pwc j else .unmapped
  | 5 => if j < p.nMax then .pwtag j else .unmapped
  | _ => .unmapped

/-- The index of a register (R81, R125); none for an unmapped one. -/
def regIndex : RegName → Option (BitVec 12)
  | .id => some 0x000
  | .param => some 0x001
  | .ctrl => some 0x002
  | .status => some 0x003
  | .cfg => some 0x004
  | .cmd => some 0x005
  | .ema => some 0x006
  | .kp => some 0x007
  | .kq => some 0x008
  | .blkcnt => some 0x009
  | .incnt => some 0x00A
  | .outcnt => some 0x00B
  | .sidx => some 0x00C
  | .sdata => some 0x00D
  | .fifostat => some 0x00E
  | .inpush => some 0x00F
  | .outpop => some 0x010
  | .blk j => some (0x100 + BitVec.ofNat 12 j)
  | .nonce j => some (0x200 + BitVec.ofNat 12 j)
  | .key j => some (0x300 + BitVec.ofNat 12 j)
  | .pwc j => some (0x400 + BitVec.ofNat 12 j)
  | .pwtag j => some (0x500 + BitVec.ofNat 12 j)
  | .unmapped => none

end Sys2Proof
end

