-- ==== Sys2Proof/Machine/ResetValues.lean ====
section
/-! DEFINITION. The reset values of the constant registers, by word width (10_state.md R59). -/

namespace Sys2Proof.Machine

/-- `EMA` after reset: the odd-numbered bits set (R59). -/
def emaReset : WordWidth → Reg
  | .w8 => 0xAA
  | .w16 => 0xAAAA
  | .w32 => 0xAAAAAAAA
  | .w64 => 0xAAAAAAAAAAAAAAAA

/-- `KP` after reset (R59). -/
def kpReset : WordWidth → Reg
  | .w8 => 0xB7
  | .w16 => 0xB7E1
  | .w32 => 0xB7E15163
  | .w64 => 0xB7E151628AED2A6B

/-- `KQ` after reset (R59). -/
def kqReset : WordWidth → Reg
  | .w8 => 0x9F
  | .w16 => 0x9E37
  | .w32 => 0x9E3779B9
  | .w64 => 0x9E3779B97F4A7C15

/-- The number of words of `SCHED`: `R_MAX*N_MAX + 2` in a DDR instance; an EM instance has none (R50). -/
def schedSize (p : Params) : Nat :=
  match p.family with
  | .em => 0
  | .ddr => p.rMax * p.nMax + 2

/-- The number of bytes of `LRAM`: `L_MAX_BYTES` in a DDR instance; an EM instance has none (R52). -/
def lramSize (p : Params) : Nat :=
  match p.family with
  | .em => 0
  | .ddr => p.lMaxBytes

end Sys2Proof.Machine
end

