-- ==== Sys2Proof/Machine/State.lean ====
section
/-! DEFINITION. The state of one engine instance (10_state.md R30 to R60) with the host agent beside it (00_scope.md
R14, R15), and the state after reset (R59). Everything is plain data. -/

namespace Sys2Proof.Machine

/-- The error codes (60_exceptions.md R291). Codes 9 to 15 are never produced, so they are not here. -/
inductive ErrCode where
  | none
  | cmd
  | param
  | noKey
  | io
  | trunc
  | pwMismatch
  | keyLen
  | keyFmt
deriving DecidableEq, Repr

/-- The fields of `CFG` (R36). Bits [63:36] are reserved: they ignore writes and read 0. -/
structure Cfg where
  /-- `ROUNDS`, bits [15:0]. -/
  rounds : BitVec 16
  /-- `NWORDS`, bits [31:16]. -/
  nwords : BitVec 16
  /-- `HEXKEY`, bit [32]. -/
  hexkey : Bool
  /-- `SROT`, bit [33]. -/
  srot : Bool
  /-- `PWFULL`, bit [34]. -/
  pwfull : Bool
  /-- `EMROT`, bit [35]. -/
  emrot : Bool
deriving DecidableEq, Repr

/-- The accumulators `A`, `B` and the indices `i`, `j` of the DDR key schedule (R57, R191). -/
structure DdrAcc where
  a : Reg
  b : Reg
  i : Nat
  j : Nat
deriving DecidableEq, Repr

/-- A running command with its working state: `op` and `ws` of `RUN(op, cfg, ws)` (R56, R57). A buffer holds the
units taken so far, so its length is the fill count `q`; the slots above it are 0 (log 10). -/
inductive Work where
  | nop
  /-- `KSCHED`, EM byte mode: partial key block, chunk buffer, `total` (R183). -/
  | ksBytes (k : List Reg) (buf : List Byte) (total : Nat)
  /-- `KSCHED`, EM hex mode: partial key block, chunk buffer of nibbles, `total` (R186). -/
  | ksHex (k : List Reg) (nibs : List (BitVec 4)) (total : Nat)
  /-- `KSCHED`, DDR: the number of passphrase bytes in `LRAM`, and `A`, `B`, `i`, `j` (R188, R191, log 11). -/
  | ksDdr (n : Nat) (acc : DdrAcc)
  /-- `NSEED`: the seed buffer and the number of seed bytes (R195). -/
  | nseed (buf : List Byte) (k : Nat)
  | pwchk
  | pwver
  | mix
  | unmix
  | benc
  | bdec
  | menc
  | mdec
  | ninc
  /-- `SENC`: block buffer, bytes of the current block still to be emitted, whether they end the command (R242). -/
  | senc (buf out : List Byte) (last : Bool)
  /-- `SDEC`: block buffer, the lookahead block if one is held, bytes still to be emitted, whether they end the
  command (R246, R247). -/
  | sdec (buf : List Byte) (held : Option (List Byte)) (out : List Byte) (last : Bool)
deriving DecidableEq, Repr

/-- The sequencer (R56). -/
inductive Seq where
  | idle
  /-- `RUN(op, cfg, ws)`, with `cfg` the `CFG` snapshot taken at issue (44_control.md R272). -/
  | run (cfg : Cfg) (work : Work)
deriving DecidableEq, Repr

/-- Why the machine stops with a fault: it never does. The engine has no traps (60_exceptions.md R290), an error
ends a command through `complete` and the machine goes on, and a holding command waits (R328). No constructor,
so nothing raises one (log 13; safe). -/
inductive Fault where
deriving DecidableEq, Repr

/-- Why an instruction is refused. -/
inductive Refusal where
  /-- Raised by an arm of `exec` for a command that has no meaning yet; no arm does (safe: the run stops). -/
  | notModelled (mnemonic : String)
deriving DecidableEq, Repr

/-- The machine: one engine instance, and the host agent that drives it. -/
structure State where
  /-- The build parameters, read back by `ID` and `PARAM` (R31, R32); no step changes them. -/
  params : Params
  /-- `CTRL.IE` (R33). -/
  ie : Bool
  /-- `STATUS.DONE` (R34). -/
  done : Bool
  /-- `KVALID` (R55). -/
  kvalid : Bool
  /-- `STATUS.WDROP` (R34). -/
  wdrop : Bool
  /-- `STATUS.INOVF` (R34). -/
  inovf : Bool
  /-- `STATUS.ERR` (R34, R291). -/
  err : ErrCode
  /-- `STATUS.LASTOP` (R34). -/
  lastop : BitVec 8
  /-- `CFG` (R36). -/
  cfg : Cfg
  /-- `CMD` readback (R41). -/
  cmd : Reg
  /-- `EMA` (R37), zero-extended from `W` bits. -/
  ema : Reg
  /-- `KP` (R38), zero-extended from `W` bits. -/
  kp : Reg
  /-- `KQ` (R39), zero-extended from `W` bits. -/
  kq : Reg
  /-- `BLKCNT` (R42). -/
  blkcnt : Reg
  /-- `INCNT` (R43). -/
  incnt : Reg
  /-- `OUTCNT` (R44). -/
  outcnt : Reg
  /-- `SIDX` bits [31:0] (R45). -/
  sidx : BitVec 32
  /-- `BLK` (R51), each word zero-extended from `W` bits. -/
  blk : List Reg
  /-- `NONCE` (R51). -/
  nonce : List Reg
  /-- `KEY` (R51). -/
  key : List Reg
  /-- `PWC` (R51). -/
  pwc : List Reg
  /-- `PWTAG` (R51). -/
  pwtag : List Reg
  /-- `SCHED` (R50); empty in an EM instance. -/
  sched : List Reg
  /-- `LRAM` (R52); empty in an EM instance. -/
  lram : List Byte
  /-- The IN FIFO, head first (R53). -/
  inFifo : List Token
  /-- The OUT FIFO, head first (R54). -/
  outFifo : List Byte
  /-- The sequencer (R56); `STATUS.BUSY` is whether it is `RUN`. -/
  seq : Seq
  /-- The model's own: what is left of the host's program (R14, log 6). -/
  host : List HostAct
  /-- The model's own: the interleaving still to come; empty leaves it to R331 (log 5). -/
  turns : List Turn
  /-- The model's own: what the host has read, newest first (R126, R128, R130, log 14). -/
  results : List HostResult
  /-- The model's own: how many free values have been drawn (log 19). -/
  free : Nat
deriving DecidableEq, Repr

/-- The three outcomes of a step of this machine. -/
abbrev Result := Host.Outcome State Fault Refusal

/-- An instance right after reset (R59, R321). `KEY`, `SCHED` and `LRAM` are unspecified there: 0 (DESIGN CHOICE,
log 2). The host agent has nothing to do yet (log 6). -/
def State.resetOf (p : Params) : State :=
  { params := p
    ie := false
    done := false
    kvalid := false
    wdrop := false
    inovf := false
    err := .none
    lastop := 0
    cfg := { rounds := 0, nwords := 0, hexkey := false, srot := false, pwfull := false, emrot := false }
    cmd := 0
    ema := emaReset p.width
    kp := kpReset p.width
    kq := kqReset p.width
    blkcnt := 0
    incnt := 0
    outcnt := 0
    sidx := 0
    blk := List.replicate p.nMax 0
    nonce := List.replicate p.nMax 0
    key := List.replicate p.nMax 0
    pwc := List.replicate p.nMax 0
    pwtag := List.replicate p.nMax 0
    sched := List.replicate (schedSize p) 0
    lram := List.replicate (lramSize p) 0
    inFifo := []
    outFifo := []
    seq := .idle
    host := []
    turns := []
    results := []
    free := 0 }

/-- The machine right after reset, as the default instance (log 1). -/
def State.reset : State := State.resetOf Params.default

end Sys2Proof.Machine
end

