-- ==== Sys2Proof/Machine/Flags.lean ====
section
/-! DEFINITION. The flags: the value of `STATUS` and the `IRQ` level (10_state.md R34, R35; 60_exceptions.md R304),
the error codes as numbers (R291), and clearing flags by writing ones (R34). The engine has no condition codes
(R60). -/

namespace Sys2Proof.Machine

/-- The number of an error code (R291). -/
def ErrCode.bits : ErrCode → BitVec 4
  | .none => 0
  | .cmd => 1
  | .param => 2
  | .noKey => 3
  | .io => 4
  | .trunc => 5
  | .pwMismatch => 6
  | .keyLen => 7
  | .keyFmt => 8

/-- `STATUS.BUSY`: the sequencer is `RUN` (R34, R56). -/
def State.busy (s : State) : Bool :=
  match s.seq with
  | .idle => false
  | .run _ _ => true

/-- The `IRQ` line: `CTRL.IE & STATUS.DONE` (R35, R304). -/
def State.irq (s : State) : Bool := s.ie && s.done

/-- The value of `STATUS` (R34). -/
def statusBits (s : State) : Reg :=
  (0 : BitVec 39) ++ BitVec.ofBool s.irq ++ s.lastop ++ (0 : BitVec 4) ++ s.err.bits ++ (0 : BitVec 3)
    ++ BitVec.ofBool s.inovf ++ BitVec.ofBool s.wdrop ++ BitVec.ofBool s.kvalid ++ BitVec.ofBool s.done
    ++ BitVec.ofBool s.busy

/-- A write of `v` to `STATUS` (R34): clears DONE if `v[1] = 1`, WDROP if `v[3] = 1`, INOVF if `v[4] = 1`, and
changes nothing else. -/
def State.writeStatus (v : Reg) (s : State) : State :=
  { s with
    done := s.done && !v.getLsbD 1
    wdrop := s.wdrop && !v.getLsbD 3
    inovf := s.inovf && !v.getLsbD 4 }

/-- A host write was dropped: `STATUS.WDROP <- 1` (44_control.md R278). -/
def State.dropWrite (s : State) : State := { s with wdrop := true }

/-- The key material no longer matches: `KVALID <- 0` (R55). -/
def State.dropKey (s : State) : State := { s with kvalid := false }

end Sys2Proof.Machine
end

