-- ==== Sys2Proof/Machine/Operands.lean ====
section
/-! DEFINITION. The operand forms: the value of `CFG` (10_state.md R36, 30_encoding.md R122), its legality (R40), the
derived quantities of 00_scope.md R9, the words a command loads from and stores to a block register (R51), and the
byte order of blocks (20_memory.md R82, 41_key_schedule.md R185). -/

namespace Sys2Proof.Machine

/-- The value of `CFG` (R36, R122). -/
def Cfg.toBits (c : Cfg) : Reg :=
  (0 : BitVec 28) ++ BitVec.ofBool c.emrot ++ BitVec.ofBool c.pwfull ++ BitVec.ofBool c.srot
    ++ BitVec.ofBool c.hexkey ++ c.nwords ++ c.rounds

/-- The fields a write of `v` to `CFG` stores (R36): exactly the bits written, reserved bits ignored. -/
def Cfg.ofBits (v : Reg) : Cfg :=
  { rounds := v.extractLsb' 0 16
    nwords := v.extractLsb' 16 16
    hexkey := v.getLsbD 32
    srot := v.getLsbD 33
    pwfull := v.getLsbD 34
    emrot := v.getLsbD 35 }

/-- `r`, the round count (R9). -/
abbrev Cfg.r (c : Cfg) : Nat := c.rounds.toNat

/-- `N`, the words per block (R9). -/
abbrev Cfg.n (c : Cfg) : Nat := c.nwords.toNat

/-- `t = r*N + 2`, the DDR schedule length (R9). -/
def Cfg.t (c : Cfg) : Nat := c.r * c.n + 2

/-- `u = W/8`, the bytes per word (R9). -/
def bytesPerWord (w : Nat) : Nat := w / 8

/-- `BB = N*u`, the bytes per block (R9). -/
def blockBytes (w n : Nat) : Nat := n * bytesPerWord w

/-- `n` is a power of two (R40 condition 3). -/
def isPow2 (n : Nat) : Bool := n == 2 ^ Nat.log2 n

/-- `CfgValid` (R40). -/
def cfgValid (p : Params) (c : Cfg) : Bool :=
  (1 ≤ c.r && c.r ≤ p.rMax) && (2 ≤ c.n && c.n ≤ p.nMax) && (!p.p2req || isPow2 c.n)
    && (p.family == .em || !c.hexkey)

/-- The words `[0 .. n-1]` of a block register or RAM, at the instance's width (R51). -/
def loadBlock (w n : Nat) (regs : List Reg) : Block w :=
  (List.range n).map (fun j => (regs.getD j 0).setWidth w)

/-- Words as register values: `zext_64` of each (R51, R58). -/
def toRegs {w : Nat} (b : Block w) : List Reg := b.map (·.setWidth 64)

/-- The words of `xs` written over the first places of `regs`; the places above them, and the number of places,
stay (R51: a command never writes words `[N] .. [N_MAX-1]`). -/
def overlay {α : Type} : List α → List α → List α
  | x :: xs, _ :: rs => x :: overlay xs rs
  | [], rs => rs
  | _ :: _, [] => []

/-- A Block stored to words `[0 .. n-1]` of a block register or RAM (R51). -/
def storeBlock {w : Nat} (b : Block w) (regs : List Reg) : List Reg := overlay (toRegs b) regs

/-- `v[W-1:0]`, zero-extended: what a `W`-bit register holds after a write of `v` (R58). -/
def truncReg (w : Nat) (v : Reg) : Reg := (v.setWidth w).setWidth 64

/-- `X ^ Y` on two Blocks, word by word (R12). -/
def xorBlock {w : Nat} (x y : Block w) : Block w := List.zipWith (· ^^^ ·) x y

/-- The Block of `n` zero Words (R12). -/
def zeroBlock (w n : Nat) : Block w := List.replicate n 0

/-- The Word of `u` bytes, most significant first (R82). -/
def wordOfBytes (w : Nat) (bytes : List Byte) : Word w :=
  BitVec.ofNat w (bytes.foldl (fun acc b => acc * 256 + b.toNat) 0)

/-- The `u` bytes of a Word, most significant first: byte `q` is `X[W-1-8*q : W-8-8*q]` (R82). -/
def bytesOfWord {w : Nat} (x : Word w) : List Byte :=
  (List.range (bytesPerWord w)).map (fun q => x.extractLsb' (w - 8 - 8 * q) 8)

/-- `pack(X)`: word 0 first, big-endian in each word (R82). -/
def pack {w : Nat} (x : Block w) : List Byte := x.flatMap bytesOfWord

/-- `unpack(bytes)` to a Block of `n` Words (R82). A byte past the end of the list is a slot nothing was put in:
it reads 0, as R183, R189, R195 and R242 fill their buffers. -/
def unpack (w n : Nat) (bytes : List Byte) : Block w :=
  (List.range n).map (fun j =>
    wordOfBytes w ((List.range (bytesPerWord w)).map (fun q => bytes.getD (j * bytesPerWord w + q) 0)))

/-- `nibpack`: two nibbles per byte, the first in the high half (R185); a nibble past the end reads 0. -/
def nibpack (bb : Nat) (nibs : List (BitVec 4)) : List Byte :=
  (List.range bb).map (fun k => nibs.getD (2 * k) 0 ++ nibs.getD (2 * k + 1) 0)

end Sys2Proof.Machine
end

