-- ==== Sys2Proof/Machine/Ops.lean ====
section
/-! DEFINITION. The shared operations: completing a command (60_exceptions.md R296: the engine's only way of taking
an error, R290), accepting and issuing one (44_control.md R271, R295), `take()` and `emit()` (20_memory.md R90, R91),
reset (70_reset_and_hazards.md R320 to R322), and drawing free values. There is no return from an error: the engine saves and
restores nothing (R306). -/

namespace Sys2Proof.Machine

/-- `complete(code)` (R296): the error code, `DONE`, and the sequencer back to `IDLE` with its working state
discarded. `BUSY` and `IRQ` follow (R34, R304). -/
def State.complete (code : ErrCode) (s : State) : State :=
  { s with err := code, done := true, seq := .idle }

/-- The acceptance effects of a word `v` written to `CMD` while `BUSY = 0` (R271). -/
def State.accept (v : Reg) (s : State) : State :=
  { s with cmd := v, lastop := cmdOp v, err := .none, done := false, incnt := 0, outcnt := 0 }

/-- The command requires `CfgValid` (R113): all but `NOP`. -/
def needsCfg : Instr → Bool
  | .nop => false
  | .ksched => true
  | .nseed => true
  | .pwchk => true
  | .pwver => true
  | .mix => true
  | .unmix => true
  | .benc => true
  | .bdec => true
  | .menc => true
  | .mdec => true
  | .ninc => true
  | .senc => true
  | .sdec => true

/-- The command requires `KVALID = 1` (R113, R271). -/
def needsKey : Instr → Bool
  | .nop => false
  | .ksched => false
  | .nseed => false
  | .pwchk => true
  | .pwver => true
  | .mix => false
  | .unmix => false
  | .benc => true
  | .bdec => true
  | .menc => true
  | .mdec => true
  | .ninc => false
  | .senc => true
  | .sdec => true

/-- `A`, `B`, `i` and `j` as the DDR key schedule starts with them (R191). -/
def ddrAccInit : DdrAcc := { a := 0, b := 0, i := 0, j := 0 }

/-- The initial working state of a command (R271), by R181 for `KSCHED` and by each command's own rule. -/
def initialWork (p : Params) (c : Cfg) : Instr → Work
  | .nop => .nop
  | .ksched =>
    match p.family with
    | .em => if c.hexkey then .ksHex (toRegs (zeroBlock p.bits c.n)) [] 0
             else .ksBytes (toRegs (zeroBlock p.bits c.n)) [] 0
    | .ddr => .ksDdr 0 ddrAccInit
  | .nseed => .nseed (List.replicate (blockBytes p.bits c.n) 0) 0
  | .pwchk => .pwchk
  | .pwver => .pwver
  | .mix => .mix
  | .unmix => .unmix
  | .benc => .benc
  | .bdec => .bdec
  | .menc => .menc
  | .mdec => .mdec
  | .ninc => .ninc
  | .senc => .senc [] [] false
  | .sdec => .sdec [] none [] false

/-- The command a working state belongs to: `op` of `RUN(op, cfg, ws)` (R56). -/
def Work.op : Work → Instr
  | .nop => .nop
  | .ksBytes _ _ _ => .ksched
  | .ksHex _ _ _ => .ksched
  | .ksDdr _ _ => .ksched
  | .nseed _ _ => .nseed
  | .pwchk => .pwchk
  | .pwver => .pwver
  | .mix => .mix
  | .unmix => .unmix
  | .benc => .benc
  | .bdec => .bdec
  | .menc => .menc
  | .mdec => .mdec
  | .ninc => .ninc
  | .senc _ _ _ => .senc
  | .sdec _ _ _ _ => .sdec

/-- The first issue check a command fails, in the order of R295: CMD, PARAM, NOKEY; `none` when it passes. -/
def issueError (i : Instr) (s : State) : ErrCode :=
  if !i.wellFormed s.params then .cmd
  else if needsCfg i && !cfgValid s.params s.cfg then .param
  else if needsKey i && !s.kvalid then .noKey
  else .none

/-- A `CMD` write of command `i` while `BUSY = 0` (R271): acceptance; `KVALID <- 0` for `KSCHED`, before its
checks (R55); the issue checks; and the start, with the `CFG` snapshot (R272). A command that fails a check is
complete in the same step. -/
def State.issue (i : Instr) (s : State) : State :=
  let s1 := s.accept (encode i)
  let s2 := if i == .ksched then s1.dropKey else s1
  if issueError i s2 = .none then { s2 with seq := .run s2.cfg (initialWork s2.params s2.cfg i) }
  else s2.complete (issueError i s2)

/-- A `CMD` write, while `BUSY = 0`, of a word that is no command of the instance (R115, R292). -/
def State.issueIllegal (v : Reg) (s : State) : State := (s.accept v).complete .cmd

/-- A DATA token: the kind `INCNT` counts (R43, R90). -/
def isData : Token → Bool
  | .data _ => true
  | .eof => false
  | .err => false
  | .reserved => false

/-- `take()` (R90): none while the IN FIFO is empty (the command holds); otherwise the head token and the state
with it removed, counted if it is data. `INCNT` is held in 64 bits, so its count wraps to 0 after `2^64 - 1`: the spec
does not say what it holds then (R43), the wrap is the model's choice (DESIGN CHOICE, log 24). -/
def State.take (s : State) : Option (Token × State) :=
  match s.inFifo with
  | [] => none
  | tok :: rest =>
    some (tok, { s with inFifo := rest, incnt := if isData tok then s.incnt + 1 else s.incnt })

/-- `emit(b)` (R91): none while the OUT FIFO is full (the command holds); otherwise the byte appended and
counted. That `OUTCNT` wraps to 0 after `2^64 - 1`, of which the spec says nothing (R44), is the model's choice (DESIGN
CHOICE, log 24). -/
def State.emit (b : Byte) (s : State) : Option State :=
  if s.outFifo.length < s.params.outDepth then
    some { s with outFifo := s.outFifo ++ [b], outcnt := s.outcnt + 1 }
  else none

/-- The running command goes on with working state `work` (R282). -/
def State.continueWith (cfg : Cfg) (work : Work) (s : State) : State := { s with seq := .run cfg work }

/-- A reset, by the reset input or by SRST (R320, R321): every item of the engine's state to its reset value, a
running command abandoned (R322). The build parameters stay, and so do the host agent and its record, which are
not the engine's (log 18). -/
def State.resetEngine (s : State) : State :=
  { State.resetOf s.params with host := s.host, turns := s.turns, results := s.results, free := s.free }

/-- `n` free Words of width `w`, zero-extended, of draw `draw` (93_implementation_defined.md U2, log 3). -/
def freeRegs (w n draw : Nat) : List Reg :=
  (List.range n).map (fun i => truncReg w (Config.freeWord draw i))

/-- `n` free bytes of draw `draw` (U2, U3, log 3). -/
def freeBytes (n draw : Nat) : List Byte :=
  (List.range n).map (fun i => (Config.freeWord draw i).setWidth 8)

/-- `LRAM` after a key schedule: any value, not observable (R52, U3). -/
def State.freeLram (s : State) : State :=
  { s with lram := freeBytes s.lram.length s.free, free := s.free + 1 }

/-- The key RAMs after a `KSCHED` that failed with IO or KEYLEN: `KEY[0 .. n-1]`, `SCHED` and `LRAM` are unspecified (R194,
U2, log 3). -/
def State.freeKeyRams (n : Nat) (s : State) : State :=
  { s with
    key := overlay (freeRegs s.params.bits n s.free) s.key
    sched := freeRegs s.params.bits s.sched.length (s.free + 1)
    lram := freeBytes s.lram.length (s.free + 2)
    free := s.free + 3 }

/-- One free 64-bit value, for a read of a register the running command writes (44_control.md R279, U1, log 4). -/
def State.drawFree (s : State) : Reg × State :=
  (Config.freeWord s.free 0, { s with free := s.free + 1 })

end Sys2Proof.Machine
end

