-- ==== Sys2Proof/Machine/Round.lean ====
section
/-! DEFINITION. The Round Function (40_round_function.md): rotations, the EM functions `Mix` and `Unmix`, the DDR
micro-steps, the keyed block functions `E` and `D`, and the commands MIX, UNMIX, BENC, BDEC. The loops of the spec's
pseudocode are folds over the list of their indices, in the pseudocode's order. -/

namespace Sys2Proof.Machine

/-- `rotl(a, k)` (R141): the amount is taken modulo the width. -/
def rotl {w : Nat} (a : Word w) (k : Nat) : Word w :=
  let s := k % w
  if s = 0 then a else (a <<< s) ||| (a >>> (w - s))

/-- `rotr(a, k)` (R142). -/
def rotr {w : Nat} (a : Word w) (k : Nat) : Word w :=
  if k % w = 0 then a else rotl a (w - k % w)

/-- `f(x)` of the EM family (R144): logical shifts with `EMROT = 0`, one-bit rotations with `EMROT = 1`. -/
def emF {w : Nat} (emrot : Bool) (a x : Word w) : Word w :=
  if emrot then rotl x 1 ^^^ x ^^^ rotr x 1 ^^^ a
  else (x <<< 1) ^^^ x ^^^ (x >>> 1) ^^^ a

/-- One step of an EM pass: `b[dst] <- b[dst] ^ f(b[src])` (R145). -/
def emXorInto {w : Nat} (emrot : Bool) (a : Word w) (dst src : Nat) (b : Block w) : Block w :=
  b.set dst (b.getD dst 0 ^^^ emF emrot a (b.getD src 0))

/-- One forward EM round on a Block of `n` Words (R145): pass 1 ascending, `w[j+1] ^= f(w[j])`; pass 2
descending, `w[j-1] ^= f(w[j])`. -/
def emRound {w : Nat} (emrot : Bool) (a : Word w) (n : Nat) (x : Block w) : Block w :=
  let x1 := (List.range (n - 1)).foldl (fun b j => emXorInto emrot a (j + 1) j b) x
  (List.range (n - 1)).reverse.foldl (fun b j => emXorInto emrot a j (j + 1) b) x1

/-- One inverse EM round (R146): pass 2 undone ascending, then pass 1 undone descending. -/
def emUnround {w : Nat} (emrot : Bool) (a : Word w) (n : Nat) (x : Block w) : Block w :=
  let x1 := (List.range (n - 1)).foldl (fun b j => emXorInto emrot a j (j + 1) b) x
  (List.range (n - 1)).reverse.foldl (fun b j => emXorInto emrot a (j + 1) j b) x1

/-- `Mix(X, k)` (R150). -/
def emMix {w : Nat} (emrot : Bool) (a : Word w) (n : Nat) : Nat → Block w → Block w
  | 0, x => x
  | k + 1, x => emRound emrot a n (emMix emrot a n k x)

/-- `Unmix(X, k)` (R151). -/
def emUnmix {w : Nat} (emrot : Bool) (a : Word w) (n : Nat) : Nat → Block w → Block w
  | 0, x => x
  | k + 1, x => emUnround emrot a n (emUnmix emrot a n k x)

/-- One forward DDR micro-step `i` (R152). -/
def ddrStep {w : Nat} (n : Nat) (sched : Block w) (b : Block w) (i : Nat) : Block w :=
  let k := i % n
  let m := (i + 1) % n
  b.set k (rotl (b.getD k 0 ^^^ b.getD m 0) (b.getD m 0).toNat + sched.getD (i + 1) 0)

/-- One inverse DDR micro-step `i` (R153). -/
def ddrUnstep {w : Nat} (n : Nat) (sched : Block w) (b : Block w) (i : Nat) : Block w :=
  let k := i % n
  let m := (i + 1) % n
  b.set k (rotr (b.getD k 0 - sched.getD (i + 1) 0) (b.getD m 0).toNat ^^^ b.getD m 0)

/-- `b[j] <- b[j] + x`, the key additions of R154. -/
def addAt {w : Nat} (j : Nat) (x : Word w) (b : Block w) : Block w := b.set j (b.getD j 0 + x)

/-- `b[j] <- b[j] - x`, their inverses (R163). -/
def subAt {w : Nat} (j : Nat) (x : Word w) (b : Block w) : Block w := b.set j (b.getD j 0 - x)

/-- `E(X)` of the DDR family (R162): `T = r*N` micro-steps between the two key additions. -/
def ddrEncrypt {w : Nat} (r n : Nat) (sched : Block w) (x : Block w) : Block w :=
  addAt (n - 1) (sched.getD (r * n + 1) 0)
    ((List.range (r * n)).foldl (ddrStep n sched) (addAt 0 (sched.getD 0 0) x))

/-- `D(Y)` of the DDR family (R163): descending step order. -/
def ddrDecrypt {w : Nat} (r n : Nat) (sched : Block w) (y : Block w) : Block w :=
  subAt 0 (sched.getD 0 0)
    ((List.range (r * n)).reverse.foldl (ddrUnstep n sched) (subAt (n - 1) (sched.getD (r * n + 1) 0) y))

/-- `E_k(X)` of the EM family, with a round count `k` (R160). -/
def emEncrypt {w : Nat} (emrot : Bool) (a : Word w) (n k : Nat) (key x : Block w) : Block w :=
  xorBlock (emMix emrot a n k (xorBlock x key)) key

/-- `D(Y)` of the EM family (R161), with a round count `k`. -/
def emDecrypt {w : Nat} (emrot : Bool) (a : Word w) (n k : Nat) (key y : Block w) : Block w :=
  xorBlock (emUnmix emrot a n k (xorBlock y key)) key

/-- What the keyed block functions read (R140): the family, `r`, `N` and `EMROT` of the snapshot, `EMA`, and the key
material. -/
structure CipherCtx (w : Nat) where
  family : Family
  r : Nat
  n : Nat
  emrot : Bool
  ema : Word w
  key : Block w
  sched : Block w
deriving DecidableEq, Repr

/-- `E(X)` of the instance's family (R160, R162). -/
def encryptBlock {w : Nat} (c : CipherCtx w) (x : Block w) : Block w :=
  match c.family with
  | .em => emEncrypt c.emrot c.ema c.n c.r c.key x
  | .ddr => ddrEncrypt c.r c.n c.sched x

/-- `D(Y)` of the instance's family (R161, R163). -/
def decryptBlock {w : Nat} (c : CipherCtx w) (y : Block w) : Block w :=
  match c.family with
  | .em => emDecrypt c.emrot c.ema c.n c.r c.key y
  | .ddr => ddrDecrypt c.r c.n c.sched y

/-- The implicit operands of the keyed block functions in a state, under a `CFG` snapshot (R117, R272). -/
def State.cipher (cfg : Cfg) (s : State) : CipherCtx s.params.bits :=
  { family := s.params.family
    r := cfg.r
    n := cfg.n
    emrot := cfg.emrot
    ema := s.ema.setWidth s.params.bits
    key := loadBlock s.params.bits cfg.n s.key
    sched := loadBlock s.params.bits cfg.t s.sched }

/-- The block operand `BLK[0 .. N-1]` (R117). -/
def State.blkBlock (cfg : Cfg) (s : State) : Block s.params.bits := loadBlock s.params.bits cfg.n s.blk

/-- `BLK[0 .. N-1] <- b`. -/
def State.setBlk {w : Nat} (b : Block w) (s : State) : State := { s with blk := storeBlock b s.blk }

/-- `MIX` (R165). Issued when no command runs; its one engine step mixes `BLK`, without a key; issued while
another command runs, the write is dropped (R278). -/
def execMix (s : State) : Result :=
  match s.seq with
  | .idle => .next (s.issue .mix)
  | .run cfg .mix =>
    .next ((s.setBlk (emMix cfg.emrot (s.ema.setWidth s.params.bits) cfg.n cfg.r (s.blkBlock cfg))).complete .none)
  | .run _ _ => .next s.dropWrite

/-- `UNMIX` (R166). -/
def execUnmix (s : State) : Result :=
  match s.seq with
  | .idle => .next (s.issue .unmix)
  | .run cfg .unmix =>
    .next ((s.setBlk (emUnmix cfg.emrot (s.ema.setWidth s.params.bits) cfg.n cfg.r (s.blkBlock cfg))).complete .none)
  | .run _ _ => .next s.dropWrite

/-- `BENC` (R167): the keyed block encrypt on `BLK`, without the counter. -/
def execBenc (s : State) : Result :=
  match s.seq with
  | .idle => .next (s.issue .benc)
  | .run cfg .benc => .next ((s.setBlk (encryptBlock (s.cipher cfg) (s.blkBlock cfg))).complete .none)
  | .run _ _ => .next s.dropWrite

/-- `BDEC` (R168): the keyed block decrypt on `BLK`. -/
def execBdec (s : State) : Result :=
  match s.seq with
  | .idle => .next (s.issue .bdec)
  | .run cfg .bdec => .next ((s.setBlk (decryptBlock (s.cipher cfg) (s.blkBlock cfg))).complete .none)
  | .run _ _ => .next s.dropWrite

end Sys2Proof.Machine
end

