-- ==== Sys2Proof/Machine/KeySchedule.lean ====
section
/-! DEFINITION. Key schedule, nonce seed and password check (41_key_schedule.md): the commands KSCHED, NSEED, PWCHK and
PWVER. A stream-reading command takes one engine step per `take()` (44_control.md R271); its computation
between two takes belongs to the step of the first. -/

namespace Sys2Proof.Machine

/-- `K <- Mix(K ^ unpack(chunk), r)`, one chunk of the EM key schedule (R183), with `K` as register values. -/
def emAbsorb (cfg : Cfg) (s : State) (k : List Reg) (chunk : List Byte) : List Reg :=
  toRegs (emMix cfg.emrot (s.ema.setWidth s.params.bits) cfg.n cfg.r
    (xorBlock (loadBlock s.params.bits cfg.n k) (unpack s.params.bits cfg.n chunk)))

/-- The final chunk at EOF in byte mode (R183, R184): the pending bytes and the sentinel 0x80 after them; an
empty passphrase counts as one zero Word. -/
def emFinalChunk (w : Nat) (buf : List Byte) (total : Nat) : List Byte :=
  (if total = 0 then List.replicate (bytesPerWord w) 0 else buf) ++ [0x80]

/-- The final chunk at EOF in hex mode (R186): the sentinel is 0x8 in the next nibble. -/
def hexFinalChunk (w : Nat) (nibs : List (BitVec 4)) (total : Nat) : List (BitVec 4) :=
  (if total = 0 then List.replicate (2 * bytesPerWord w) 0 else nibs) ++ [0x8]

/-- `KSCHED` in an EM instance completes with key block `k` (R194): `KEY`, `KVALID` and the completion in one
step. -/
def State.finishEmKey (k : List Reg) (s : State) : State :=
  ({ s with key := overlay k s.key, kvalid := true }).complete .none

/-- `KSCHED` fails with IO or KEYLEN (R194, R303): `KVALID` stays 0 and the key RAMs are unspecified (log 3). -/
def State.failKey (cfg : Cfg) (code : ErrCode) (s : State) : State := (s.freeKeyRams cfg.n).complete code

/-- One engine step of `KS_EM_BYTES` (R183). -/
def ksBytesStep (cfg : Cfg) (k : List Reg) (buf : List Byte) (total : Nat) (s : State) : State :=
  match s.take with
  | none => s
  | some (.data b, s1) =>
    if (buf ++ [b]).length = blockBytes s.params.bits cfg.n then
      s1.continueWith cfg (.ksBytes (emAbsorb cfg s k (buf ++ [b])) [] (total + 1))
    else s1.continueWith cfg (.ksBytes k (buf ++ [b]) (total + 1))
  | some (.eof, s1) => s1.finishEmKey (emAbsorb cfg s k (emFinalChunk s.params.bits buf total))
  | some (.err, s1) => s1.failKey cfg .io
  | some (.reserved, s1) => s1.failKey cfg .io

/-- One engine step of `KS_EM_HEX` (R186): a data token above 0x0F ends it with KEYFMT, and `KEY` is not written (R187,
log 3). -/
def ksHexStep (cfg : Cfg) (k : List Reg) (nibs : List (BitVec 4)) (total : Nat) (s : State) : State :=
  match s.take with
  | none => s
  | some (.data b, s1) =>
    if 0x0F < b.toNat then s1.complete .keyFmt
    else if (nibs ++ [b.setWidth 4]).length = 2 * blockBytes s.params.bits cfg.n then
      s1.continueWith cfg
        (.ksHex (emAbsorb cfg s k (nibpack (blockBytes s.params.bits cfg.n) (nibs ++ [b.setWidth 4]))) [] (total + 1))
    else s1.continueWith cfg (.ksHex k (nibs ++ [b.setWidth 4]) (total + 1))
  | some (.eof, s1) =>
    s1.finishEmKey
      (emAbsorb cfg s k (nibpack (blockBytes s.params.bits cfg.n) (hexFinalChunk s.params.bits nibs total)))
  | some (.err, s1) => s1.failKey cfg .io
  | some (.reserved, s1) => s1.failKey cfg .io

/-- The state of the DDR mixing loop (R191): `A`, `B`, `i`, `j`, and the arrays `S` and `L`. -/
structure DdrLoop (w : Nat) where
  a : Word w
  b : Word w
  i : Nat
  j : Nat
  s : Block w
  l : Block w
deriving DecidableEq, Repr

/-- The number of key words, `c = max(1, ceil(n / u))` (R189). -/
def keyWordLength (w n : Nat) : Nat := max 1 ((n + bytesPerWord w - 1) / bytesPerWord w)

/-- The key-word array `L` (R189): big-endian, zero-padded at the end. -/
def ddrKeyWords (w : Nat) (bytes : List Byte) : Block w := unpack w (keyWordLength w bytes.length) bytes

/-- The schedule array before mixing (R190): `S[0] = KP`, each later word the one before it plus `KQ`. -/
def ddrSchedInit {w : Nat} (kp kq : Word w) : Nat → Block w
  | 0 => []
  | t + 1 => kp :: ddrSchedInit (kp + kq) kq t

/-- `ROT_S(x)` (R192): `x mod W`, or 3 with `SROT = 1`. -/
def rotS {w : Nat} (srot : Bool) (x : Word w) : Nat := if srot then 3 else x.toNat % w

/-- One pass of the mixing loop (R191): the S update, then the L update, each with the current `A + B`. -/
def ddrMixOnce {w : Nat} (srot : Bool) (t c : Nat) (d : DdrLoop w) : DdrLoop w :=
  let x := d.a + d.b
  let a := rotl (d.s.getD d.i 0 + x) (rotS srot x)
  let y := a + d.b
  let b := rotl (d.l.getD d.j 0 + y) y.toNat
  { a := a, b := b, i := (d.i + 1) % t, j := (d.j + 1) % c, s := d.s.set d.i a, l := d.l.set d.j b }

/-- The mixing loop run `k` times (R191). -/
def ddrMixLoop {w : Nat} (srot : Bool) (t c : Nat) : Nat → DdrLoop w → DdrLoop w
  | 0, d => d
  | k + 1, d => ddrMixLoop srot t c k (ddrMixOnce srot t c d)

/-- `DDR_EXPAND` (R189 to R191): the schedule of `t` Words from the passphrase bytes. -/
def ddrExpand {w : Nat} (srot : Bool) (t : Nat) (kp kq : Word w) (acc : DdrAcc) (bytes : List Byte) : Block w :=
  let c := keyWordLength w bytes.length
  (ddrMixLoop srot t c (3 * max t c)
    { a := acc.a.setWidth w, b := acc.b.setWidth w, i := acc.i, j := acc.j
      s := ddrSchedInit kp kq t, l := ddrKeyWords w bytes }).s

/-- `KSCHED` in a DDR instance completes with the schedule `sched` (R194); `LRAM` is then any value (R52). -/
def State.finishDdrKey {w : Nat} (sched : Block w) (s : State) : State :=
  ({ s with sched := storeBlock sched s.sched, kvalid := true }).freeLram.complete .none

/-- One engine step of `KS_DDR` (R188): the byte after `L_MAX_BYTES` of them ends it with KEYLEN. -/
def ksDdrStep (cfg : Cfg) (n : Nat) (acc : DdrAcc) (s : State) : State :=
  match s.take with
  | none => s
  | some (.data b, s1) =>
    if n = s.params.lMaxBytes then s1.failKey cfg .keyLen
    else ({ s1 with lram := s1.lram.set n b }).continueWith cfg (.ksDdr (n + 1) acc)
  | some (.eof, s1) =>
    s1.finishDdrKey (ddrExpand cfg.srot cfg.t (s.kp.setWidth s.params.bits) (s.kq.setWidth s.params.bits) acc
      (s.lram.take n))
  | some (.err, s1) => s1.failKey cfg .io
  | some (.reserved, s1) => s1.failKey cfg .io

/-- `KSCHED` (R181): in an EM instance by bytes or by nibbles, in a DDR instance through `LRAM`. -/
def execKsched (s : State) : Result :=
  match s.seq with
  | .idle => .next (s.issue .ksched)
  | .run cfg (.ksBytes k buf total) => .next (ksBytesStep cfg k buf total s)
  | .run cfg (.ksHex k nibs total) => .next (ksHexStep cfg k nibs total s)
  | .run cfg (.ksDdr n acc) => .next (ksDdrStep cfg n acc s)
  | .run _ _ => .next s.dropWrite

/-- `buf[k mod BB] <- buf[k mod BB] ^ b` (R195). -/
def seedFold (bb : Nat) (buf : List Byte) (k : Nat) (b : Byte) : List Byte :=
  buf.set (k % bb) (buf.getD (k % bb) 0 ^^^ b)

/-- `NONCE[0 .. N-1] <- b`. -/
def State.setNonce {w : Nat} (b : Block w) (s : State) : State := { s with nonce := storeBlock b s.nonce }

/-- One engine step of `NSEED` (R195): `NONCE` is written at EOF only. -/
def nseedStep (cfg : Cfg) (buf : List Byte) (k : Nat) (s : State) : State :=
  match s.take with
  | none => s
  | some (.data b, s1) =>
    s1.continueWith cfg (.nseed (seedFold (blockBytes s.params.bits cfg.n) buf k b) (k + 1))
  | some (.eof, s1) => (s1.setNonce (unpack s.params.bits cfg.n buf)).complete .none
  | some (.err, s1) => s1.complete .io
  | some (.reserved, s1) => s1.complete .io

/-- `NSEED` (R195). -/
def execNseed (s : State) : Result :=
  match s.seq with
  | .idle => .next (s.issue .nseed)
  | .run cfg (.nseed buf k) => .next (nseedStep cfg buf k s)
  | .run _ _ => .next s.dropWrite

/-- The password-check block (R196): `E_{4r}(Zero)` in an EM instance, `E(Zero)` in a DDR instance. -/
def checkBlock {w : Nat} (c : CipherCtx w) : Block w :=
  match c.family with
  | .em => emEncrypt c.emrot c.ema c.n (4 * c.r) c.key (zeroBlock w c.n)
  | .ddr => ddrEncrypt c.r c.n c.sched (zeroBlock w c.n)

/-- `PWC[0 .. N-1] <- b`. -/
def State.setPwc {w : Nat} (b : Block w) (s : State) : State := { s with pwc := storeBlock b s.pwc }

/-- `PWCHK` (R196). -/
def execPwchk (s : State) : Result :=
  match s.seq with
  | .idle => .next (s.issue .pwchk)
  | .run cfg .pwchk => .next ((s.setPwc (checkBlock (s.cipher cfg))).complete .none)
  | .run _ _ => .next s.dropWrite

/-- The comparison of `PWVER` (R197): the first word, or with `PWFULL = 1` every word. -/
def tagMatches {w : Nat} (full : Bool) (check tag : Block w) : Bool :=
  if full then check == tag else check.getD 0 0 == tag.getD 0 0

/-- `PWVER` (R197): `PWC` is written whether or not the check matches. -/
def execPwver (s : State) : Result :=
  match s.seq with
  | .idle => .next (s.issue .pwver)
  | .run cfg .pwver =>
    .next ((s.setPwc (checkBlock (s.cipher cfg))).complete
      (if tagMatches cfg.pwfull (checkBlock (s.cipher cfg)) (loadBlock s.params.bits cfg.n s.pwtag) then .none
       else .pwMismatch))
  | .run _ _ => .next s.dropWrite

end Sys2Proof.Machine
end

