-- ==== Sys2Proof/Machine/ModeComposer.lean ====
section
/-! DEFINITION. The Mode Composer (42_mode_composer.md): the nonce counter, the per-block functions `MC_ENC` and
`MC_DEC`, and the commands MENC, MDEC, NINC. -/

namespace Sys2Proof.Machine

/-- The loop of `inc` at word `j` (R221): carry into the next more significant word when word `j` wraps and is
not the top word. -/
def incFrom {w : Nat} : Nat → Block w → Block w
  | 0, v => v.set 0 (v.getD 0 0 + 1)
  | j + 1, v =>
    let v1 := v.set (j + 1) (v.getD (j + 1) 0 + 1)
    if v1.getD (j + 1) 0 ≠ 0 then v1 else incFrom j v1

/-- `inc(V)` (R221): Word `n-1` is the least significant. -/
def nonceInc {w : Nat} (n : Nat) (v : Block w) : Block w := incFrom (n - 1) v

/-- `NONCE[0 .. N-1]`. -/
def State.nonceBlock (cfg : Cfg) (s : State) : Block s.params.bits := loadBlock s.params.bits cfg.n s.nonce

/-- The block `MC_ENC(P)` returns under nonce `v` (R222, R223): `E(P ^ E(v))`. -/
def mcEncBlock {w : Nat} (c : CipherCtx w) (v p : Block w) : Block w :=
  encryptBlock c (xorBlock p (encryptBlock c v))

/-- The block `MC_DEC(C)` returns under nonce `v` (R224): `D(C) ^ E(v)`. -/
def mcDecBlock {w : Nat} (c : CipherCtx w) (v ct : Block w) : Block w :=
  xorBlock (decryptBlock c ct) (encryptBlock c v)

/-- The counters after one Mode Composer block (R223, R224): `NONCE <- inc(NONCE)`, `BLKCNT <- BLKCNT + 1`. -/
def State.advanceNonce (cfg : Cfg) (s : State) : State :=
  { s with nonce := storeBlock (nonceInc cfg.n (s.nonceBlock cfg)) s.nonce, blkcnt := s.blkcnt + 1 }

/-- `MENC` (R223). -/
def execMenc (s : State) : Result :=
  match s.seq with
  | .idle => .next (s.issue .menc)
  | .run cfg .menc =>
    .next (((s.setBlk (mcEncBlock (s.cipher cfg) (s.nonceBlock cfg) (s.blkBlock cfg))).advanceNonce cfg).complete
      .none)
  | .run _ _ => .next s.dropWrite

/-- `MDEC` (R224). -/
def execMdec (s : State) : Result :=
  match s.seq with
  | .idle => .next (s.issue .mdec)
  | .run cfg .mdec =>
    .next (((s.setBlk (mcDecBlock (s.cipher cfg) (s.nonceBlock cfg) (s.blkBlock cfg))).advanceNonce cfg).complete
      .none)
  | .run _ _ => .next s.dropWrite

/-- `NINC` (R225): the nonce alone; `BLKCNT` stays. -/
def execNinc (s : State) : Result :=
  match s.seq with
  | .idle => .next (s.issue .ninc)
  | .run cfg .ninc => .next ((s.setNonce (nonceInc cfg.n (s.nonceBlock cfg))).complete .none)
  | .run _ _ => .next s.dropWrite

end Sys2Proof.Machine
end

