-- ==== Sys2Proof/Machine/Codec.lean ====
section
/-! DEFINITION. The Streaming Codec (43_stream_codec.md): the commands SENC and SDEC. One engine step is one `take()`
or one `emit()` (20_memory.md R93); the computation after a take belongs to its step, and `complete()` to the step of
the take or emit before it (log 9). -/

namespace Sys2Proof.Machine

/-- The sentinel byte (R241). -/
def sentinel : Byte := 0x80

/-- The command goes on to emit `out` (`last`: then it is complete). With nothing to emit it is complete at once
if `last`, and otherwise takes its next token. -/
def State.emitThen (cfg : Cfg) (work : List Byte → Work) (out : List Byte) (last : Bool) (s : State) : State :=
  if out = [] ∧ last then s.complete .none else s.continueWith cfg (work out)

/-- The step of `emit` for the head of `out` (R91): a full OUT FIFO holds the command. -/
def emitStep (cfg : Cfg) (work : List Byte → Work) (b : Byte) (rest : List Byte) (last : Bool) (s : State) : State :=
  match s.emit b with
  | none => s
  | some s1 => s1.emitThen cfg work rest last

/-- `pack(MC_ENC(unpack(bytes)))` (R242): the ciphertext of one block of plaintext bytes. -/
def sencBlockBytes (cfg : Cfg) (s : State) (bytes : List Byte) : List Byte :=
  pack (mcEncBlock (s.cipher cfg) (s.nonceBlock cfg) (unpack s.params.bits cfg.n bytes))

/-- `pack(MC_DEC(unpack(bytes)))` (R246): the plaintext of one block of ciphertext bytes. -/
def sdecBlockBytes (cfg : Cfg) (s : State) (bytes : List Byte) : List Byte :=
  pack (mcDecBlock (s.cipher cfg) (s.nonceBlock cfg) (unpack s.params.bits cfg.n bytes))

/-- The engine step of `SENC` that takes a token (R242 to R245). -/
def sencTake (cfg : Cfg) (buf : List Byte) (s : State) : State :=
  match s.take with
  | none => s
  | some (.data b, s1) =>
    if (buf ++ [b]).length = blockBytes s.params.bits cfg.n then
      (s1.advanceNonce cfg).emitThen cfg (fun out => .senc [] out false) (sencBlockBytes cfg s (buf ++ [b])) false
    else s1.continueWith cfg (.senc (buf ++ [b]) [] false)
  | some (.eof, s1) =>
    (s1.advanceNonce cfg).emitThen cfg (fun out => .senc [] out true) (sencBlockBytes cfg s (buf ++ [sentinel])) true
  | some (.err, s1) => s1.complete .io
  | some (.reserved, s1) => s1.complete .io

/-- `SENC` (R242). -/
def execSenc (s : State) : Result :=
  match s.seq with
  | .idle => .next (s.issue .senc)
  | .run cfg (.senc buf [] _) => .next (sencTake cfg buf s)
  | .run cfg (.senc buf (b :: rest) last) => .next (emitStep cfg (fun out => .senc buf out last) b rest last s)
  | .run _ _ => .next s.dropWrite

/-- The scan of `lastNonZero` from position `k` down (R248). -/
def lastNonZeroFrom (bytes : List Byte) : Nat → Nat
  | 0 => 0
  | k + 1 => if bytes.getD (k + 1) 0 ≠ 0 then k + 1 else lastNonZeroFrom bytes k

/-- `lastNonZero(P)` (R248); 0 when no byte is non-zero (R249). -/
def lastNonZero (bytes : List Byte) : Nat := lastNonZeroFrom bytes (bytes.length - 1)

/-- The bytes `SDEC` writes of the decrypted last block: those strictly before the last non-zero one (R248). -/
def stripPadding (bytes : List Byte) : List Byte := bytes.take (lastNonZero bytes)

/-- A complete ciphertext block `blk` has been taken (R246, R247): the block held before it, if any, is not the
last, and is decrypted and emitted; `blk` is held. -/
def sdecBlockTaken (cfg : Cfg) (held : Option (List Byte)) (blk : List Byte) (s : State) : State :=
  match held with
  | none => s.continueWith cfg (.sdec [] (some blk) [] false)
  | some h =>
    (s.advanceNonce cfg).emitThen cfg (fun out => .sdec [] (some blk) out false) (sdecBlockBytes cfg s h) false

/-- EOF has been taken with `buf` pending (R246, R250): TRUNC with a partial block pending or no block held;
otherwise the held block is the last. -/
def sdecEof (cfg : Cfg) (buf : List Byte) (held : Option (List Byte)) (s : State) : State :=
  match held with
  | none => s.complete .trunc
  | some h =>
    if buf ≠ [] then s.complete .trunc
    else (s.advanceNonce cfg).emitThen cfg (fun out => .sdec [] none out true)
      (stripPadding (sdecBlockBytes cfg s h)) true

/-- The engine step of `SDEC` that takes a token (R246 to R251). -/
def sdecTake (cfg : Cfg) (buf : List Byte) (held : Option (List Byte)) (s : State) : State :=
  match s.take with
  | none => s
  | some (.data b, s1) =>
    if (buf ++ [b]).length = blockBytes s.params.bits cfg.n then sdecBlockTaken cfg held (buf ++ [b]) s1
    else s1.continueWith cfg (.sdec (buf ++ [b]) held [] false)
  | some (.eof, s1) => sdecEof cfg buf held s1
  | some (.err, s1) => s1.complete .io
  | some (.reserved, s1) => s1.complete .io

/-- `SDEC` (R246). -/
def execSdec (s : State) : Result :=
  match s.seq with
  | .idle => .next (s.issue .sdec)
  | .run cfg (.sdec buf held [] _) => .next (sdecTake cfg buf held s)
  | .run cfg (.sdec buf held (b :: rest) last) =>
    .next (emitStep cfg (fun out => .sdec buf held out last) b rest last s)
  | .run _ _ => .next s.dropWrite

end Sys2Proof.Machine
end

