-- ==== Sys2Proof/Machine/Control.lean ====
section
/-! DEFINITION. The command NOP (44_control.md R270). -/

namespace Sys2Proof.Machine

/-- `NOP` (R270): its one engine step completes and does nothing else. -/
def execNop (s : State) : Result :=
  match s.seq with
  | .idle => .next (s.issue .nop)
  | .run _ .nop => .next (s.complete .none)
  | .run _ _ => .next s.dropWrite

end Sys2Proof.Machine
end

