-- ==== Sys2Proof/Machine/Dispatch.lean ====
section
/-! DEFINITION. The meaning of every command: what it does when it is issued, and each of its engine steps. -/

namespace Sys2Proof.Machine

/-- Command `i` in state `s`. With no command running it is issued (44_control.md R271); with `i` running it takes
its next engine step (20_memory.md R93); with another command running it is a `CMD` write while `BUSY = 1`, which is
dropped (R278). -/
def exec (i : Instr) (s : State) : Host.Outcome State Fault Refusal :=
  match i with
  | .nop => Sys2Proof.Machine.execNop s
  | .ksched => Sys2Proof.Machine.execKsched s
  | .nseed => Sys2Proof.Machine.execNseed s
  | .pwchk => Sys2Proof.Machine.execPwchk s
  | .pwver => Sys2Proof.Machine.execPwver s
  | .mix => Sys2Proof.Machine.execMix s
  | .unmix => Sys2Proof.Machine.execUnmix s
  | .benc => Sys2Proof.Machine.execBenc s
  | .bdec => Sys2Proof.Machine.execBdec s
  | .menc => Sys2Proof.Machine.execMenc s
  | .mdec => Sys2Proof.Machine.execMdec s
  | .ninc => Sys2Proof.Machine.execNinc s
  | .senc => Sys2Proof.Machine.execSenc s
  | .sdec => Sys2Proof.Machine.execSdec s

end Sys2Proof.Machine
end

