-- ==== Sys2Proof/Machine/HostPort.lean ====
section
/-! DEFINITION. The host's register accesses: what a write does and what a read returns (10_state.md R31 to R51,
20_memory.md R80 to R88, 44_control.md R271 to R279). Every access is one step (R86). -/

namespace Sys2Proof.Machine

/-- The value of `ID` (R31). -/
def idBits (p : Params) : Reg :=
  (0 : BitVec 16) ++ BitVec.ofNat 16 p.rMax ++ (0 : BitVec 14) ++ BitVec.ofBool p.p2req
    ++ BitVec.ofBool (p.family == .ddr) ++ BitVec.ofNat 8 p.bits ++ (1 : BitVec 8)

/-- The value of `PARAM` (R32). -/
def paramBits (p : Params) : Reg :=
  BitVec.ofNat 16 p.outDepth ++ BitVec.ofNat 16 p.inDepth ++ BitVec.ofNat 16 p.lMaxBytes ++ BitVec.ofNat 16 p.nMax

/-- The value of `FIFOSTAT` (R47). -/
def fifostatBits (s : State) : Reg :=
  (0 : BitVec 32) ++ BitVec.ofNat 16 s.outFifo.length ++ BitVec.ofNat 16 s.inFifo.length

/-- A write the register drops while `BUSY = 1`, setting `WDROP` (R278); otherwise it has its effect. -/
def State.guarded (effect : State → State) (s : State) : State := if s.busy then s.dropWrite else effect s

/-- INFLUSH (R274): empties the IN FIFO; `INOVF` stays. -/
def State.flushIn (s : State) : State := { s with inFifo := [] }

/-- OUTFLUSH (R275): empties the OUT FIFO; `OUTCNT` stays. -/
def State.flushOut (s : State) : State := { s with outFifo := [] }

/-- A `CTRL` write (R273 to R277): SRST alone when `v[1] = 1`; otherwise IE, then INFLUSH, then OUTFLUSH. -/
def State.writeCtrl (v : Reg) (s : State) : State :=
  if v.getLsbD 1 then s.resetEngine
  else
    let s1 := { s with ie := v.getLsbD 0 }
    let s2 := if v.getLsbD 2 then s1.guarded State.flushIn else s1
    if v.getLsbD 3 then s2.guarded State.flushOut else s2

/-- An `INPUSH` write (R48): the token is appended, or dropped with `INOVF` when the IN FIFO is full. -/
def State.pushIn (v : Reg) (s : State) : State :=
  if s.inFifo.length < s.params.inDepth then
    { s with inFifo := s.inFifo ++ [tokenOfBits (v.extractLsb' 0 10)] }
  else { s with inovf := true }

/-- A `CMD` write (R271): dropped while `BUSY = 1`; an illegal word completes with error CMD; a legal one is its
command's meaning from the idle sequencer. -/
def State.writeCmd (v : Reg) (s : State) : Result :=
  if s.busy then .next s.dropWrite
  else
    match decode s.params v with
    | .ok i => exec i s
    | .error _ => .next (s.issueIllegal v)

/-- A host write of `v` to register `r` (R278 and each register's own rule). -/
def State.writeReg (r : RegName) (v : Reg) (s : State) : Result :=
  match r with
  | .id => .next s
  | .param => .next s
  | .ctrl => .next (s.writeCtrl v)
  | .status => .next (s.writeStatus v)
  | .cfg => .next (s.guarded (fun s => { s with cfg := Cfg.ofBits v, kvalid := false }))
  | .cmd => s.writeCmd v
  | .ema => .next (s.guarded (fun s => { s with ema := truncReg s.params.bits v, kvalid := false }))
  | .kp => .next (s.guarded (fun s => { s with kp := truncReg s.params.bits v, kvalid := false }))
  | .kq => .next (s.guarded (fun s => { s with kq := truncReg s.params.bits v, kvalid := false }))
  | .blkcnt => .next (s.guarded (fun s => { s with blkcnt := v }))
  | .incnt => .next s
  | .outcnt => .next s
  | .sidx => .next (s.guarded (fun s => { s with sidx := v.setWidth 32 }))
  | .sdata => .next s
  | .fifostat => .next s
  | .inpush => .next (s.pushIn v)
  | .outpop => .next s
  | .blk j => .next (s.guarded (fun s => { s with blk := s.blk.set j (truncReg s.params.bits v) }))
  | .nonce j => .next (s.guarded (fun s => { s with nonce := s.nonce.set j (truncReg s.params.bits v) }))
  | .key _ => .next s
  | .pwc _ => .next s
  | .pwtag j => .next (s.guarded (fun s => { s with pwtag := s.pwtag.set j (truncReg s.params.bits v) }))
  | .unmapped => .next s

/-- The command writes `BLK` (R113, "writes" column). -/
def writesBlk : Instr → Bool
  | .mix | .unmix | .benc | .bdec | .menc | .mdec => true
  | .nop | .ksched | .nseed | .pwchk | .pwver | .ninc | .senc | .sdec => false

/-- The command writes `NONCE` (R113). -/
def writesNonce : Instr → Bool
  | .nseed | .menc | .mdec | .ninc | .senc | .sdec => true
  | .nop | .ksched | .pwchk | .pwver | .mix | .unmix | .benc | .bdec => false

/-- The command writes `PWC` (R113). -/
def writesPwc : Instr → Bool
  | .pwchk | .pwver => true
  | .nop | .ksched | .nseed | .mix | .unmix | .benc | .bdec | .menc | .mdec | .ninc | .senc | .sdec => false

/-- The command writes `BLKCNT` (R113). -/
def writesBlkcnt : Instr → Bool
  | .menc | .mdec | .senc | .sdec => true
  | .nop | .ksched | .nseed | .pwchk | .pwver | .mix | .unmix | .benc | .bdec | .ninc => false

/-- A register that `writes` says the running command writes reads as any value (R279). -/
def State.unstable (writes : Instr → Bool) (s : State) : Bool :=
  match s.seq with
  | .idle => false
  | .run _ work => writes work.op

/-- As `unstable`, for word `j` of a block: words `[N ..]` are not written (R279, R51). -/
def State.unstableWord (writes : Instr → Bool) (j : Nat) (s : State) : Bool :=
  match s.seq with
  | .idle => false
  | .run cfg work => writes work.op && decide (j < cfg.n)

/-- A block word read (R51): the word, or while a command writes it any `W`-bit value (R279, U1, log 4). -/
def State.readWord (writes : Instr → Bool) (regs : List Reg) (j : Nat) (s : State) : Reg × State :=
  if s.unstableWord writes j then (truncReg s.params.bits s.drawFree.1, s.drawFree.2) else (regs.getD j 0, s)

/-- An `OUTPOP` read (R49, R120): pops the head byte and returns `0x100 | b`, or 0 when empty. -/
def State.popOut (s : State) : Reg × State :=
  match s.outFifo with
  | [] => (0, s)
  | b :: rest => ((0 : BitVec 55) ++ (1 : BitVec 1) ++ b, { s with outFifo := rest })

/-- The value of `SDATA` (R46): gated by FAMILY, `KVALID` and `SIDX < t`. -/
def sdataValue (s : State) : Reg :=
  if s.params.family = .ddr ∧ s.kvalid = true ∧ s.sidx.toNat < s.cfg.t then s.sched.getD s.sidx.toNat 0 else 0

/-- The value of `KEY[j]` (R51): gated by FAMILY and `KVALID`. -/
def keyValue (j : Nat) (s : State) : Reg :=
  if s.params.family = .em ∧ s.kvalid = true then s.key.getD j 0 else 0

/-- A host read of register `r`: the value and the state after it. Only `OUTPOP` has a side effect (R87); a free
value counts as drawn (log 4). -/
def State.readReg (r : RegName) (s : State) : Reg × State :=
  match r with
  | .id => (idBits s.params, s)
  | .param => (paramBits s.params, s)
  | .ctrl => ((0 : BitVec 63) ++ BitVec.ofBool s.ie, s)
  | .status => (statusBits s, s)
  | .cfg => (s.cfg.toBits, s)
  | .cmd => (s.cmd, s)
  | .ema => (s.ema, s)
  | .kp => (s.kp, s)
  | .kq => (s.kq, s)
  | .blkcnt => if s.unstable writesBlkcnt then s.drawFree else (s.blkcnt, s)
  | .incnt => (s.incnt, s)
  | .outcnt => (s.outcnt, s)
  | .sidx => (s.sidx.setWidth 64, s)
  | .sdata => (sdataValue s, s)
  | .fifostat => (fifostatBits s, s)
  | .inpush => (0, s)
  | .outpop => s.popOut
  | .blk j => s.readWord writesBlk s.blk j
  | .nonce j => s.readWord writesNonce s.nonce j
  | .key j => (keyValue j s, s)
  | .pwc j => s.readWord writesPwc s.pwc j
  | .pwtag j => (s.pwtag.getD j 0, s)
  | .unmapped => (0, s)

end Sys2Proof.Machine
end

