-- ==== Sys2Proof/Machine/HostProgram.lean ====
section
/-! DEFINITION. The host notation that abbreviates register writes and polls (30_encoding.md R125, R127 to R129), and
the host's side of transcoding (43_stream_codec.md R256). -/

namespace Sys2Proof.Machine

/-- `WR reg, value` for a register by name (R125); none for an unmapped one. -/
def wrReg (r : RegName) (v : Reg) : Option HostAct := (regIndex r).map (fun idx => .wr idx v)

/-- `RD reg` for a register by name (R126). -/
def rdReg (r : RegName) : Option HostAct := (regIndex r).map .rd

/-- `PUSH tok` (R127): `WR INPUSH, tok`. -/
def pushToken (tok : BitVec 10) : HostAct := .wr 0x00F (tok.setWidth 64)

/-- `PUSHS` and `PUSHX` (R127): one PUSH per byte. -/
def pushBytes (bytes : List Byte) : List HostAct := bytes.map (fun b => pushToken (tokenBits (.data b)))

/-- `PUSHEOF` (R127). -/
def pushEof : HostAct := pushToken 0x100

/-- `PUSHERR` (R127). -/
def pushErr : HostAct := pushToken 0x200

/-- `WAIT` (R128): `POLL STATUS, 0x2, 0x2`. -/
def wait : HostAct := .poll 0x003 0x2 0x2

/-- `DRAIN n` as an action of a program (R130): nothing collected yet. -/
def drain (n : Nat) : HostAct := .drain n []

/-- `CMDW value` (R129). -/
def cmdWord (v : Reg) : HostAct := .wr 0x005 v

/-- A command mnemonic alone on a line (R129): `WR CMD, op`. -/
def commandLine (i : Instr) : HostAct := cmdWord (encode i)

/-- Steps 2 and 3 of transcoding (R256): what a host pushes to instance Y for the bytes instance X emitted before it
completed with `code`: each byte as a DATA token, then EOF when X completed with 0, ERR otherwise. -/
def transcodeFeed (bytes : List Byte) (code : ErrCode) : List HostAct :=
  pushBytes bytes ++ [if code = .none then pushEof else pushErr]

end Sys2Proof.Machine
end

