-- ==== Sys2Proof/Machine/Agents.lean ====
section
/-! DEFINITION. The agents' steps (00_scope.md R15): one host action (30_encoding.md R125 to R130), one engine step
(20_memory.md R93), and which agent moves next (70_reset_and_hazards.md R330, R331). -/

namespace Sys2Proof.Machine

/-- The host reads index `idx` and keeps what it read (R126). -/
def State.hostRead (idx : BitVec 12) (s : State) : Reg × State :=
  let x := s.readReg (regOf s.params idx)
  (x.1, { x.2 with results := .word idx x.1 :: x.2.results })

/-- One access of `DRAIN` (R130): a read of `OUTPOP`. A read with bit 8 set gives its bits [7:0] to the bytes collected,
the last of the `n` ends the action and keeps the byte string; a read that returns 0 is discarded, and the action reads
again. -/
def State.drainOnce (n : Nat) (got : List Byte) (rest : List HostAct) (s : State) : State :=
  match n with
  | 0 => { s with host := rest, results := .bytes got :: s.results }
  | k + 1 =>
    let x := s.readReg .outpop
    let got' := got ++ [x.1.extractLsb' 0 8]
    if x.1.getLsbD 8 then
      if k = 0 then { x.2 with host := rest, results := .bytes got' :: x.2.results }
      else { x.2 with host := .drain k got' :: rest }
    else { x.2 with host := .drain (k + 1) got :: rest }

/-- One read of `POLL` (R128): the host goes on when the masked value is the one asked for, and otherwise polls
again. -/
def State.pollOnce (idx : BitVec 12) (mask value : Reg) (rest : List HostAct) (s : State) : State :=
  let x := s.hostRead idx
  { x.2 with host := if x.1 &&& mask = value then rest else .poll idx mask value :: rest }

/-- The host's next access (R14); with its program at an end it does nothing (R332). -/
def hostTurn (s : State) : Result :=
  match s.host with
  | [] => .next s
  | .wr idx v :: rest => State.writeReg (regOf s.params idx) v { s with host := rest }
  | .rd idx :: rest => .next (State.hostRead idx { s with host := rest }).2
  | .poll idx mask value :: rest => .next (s.pollOnce idx mask value rest)
  | .drain n got :: rest => .next (s.drainOnce n got rest)

/-- The sequencer's turn: the running command's next step; an idle engine does nothing (R313). -/
def engineTurn (s : State) : Result :=
  match s.seq with
  | .idle => .next s
  | .run _ work => exec work.op s

/-- The command is at `emit()` (R91). -/
def Work.atEmit : Work → Bool
  | .senc _ (_ :: _) _ => true
  | .sdec _ _ (_ :: _) _ => true
  | .senc _ [] _ => false
  | .sdec _ _ [] _ => false
  | .ksBytes _ _ _ | .ksHex _ _ _ | .ksDdr _ _ | .nseed _ _ => false
  | .nop | .pwchk | .pwver | .mix | .unmix | .benc | .bdec | .menc | .mdec | .ninc => false

/-- The command is at `take()` (R90). -/
def Work.atTake : Work → Bool
  | .senc _ [] _ => true
  | .sdec _ _ [] _ => true
  | .senc _ (_ :: _) _ => false
  | .sdec _ _ (_ :: _) _ => false
  | .ksBytes _ _ _ | .ksHex _ _ _ | .ksDdr _ _ | .nseed _ _ => true
  | .nop | .pwchk | .pwver | .mix | .unmix | .benc | .bdec | .menc | .mdec | .ninc => false

/-- An engine step is enabled (R331): a command runs and does not hold. -/
def engineEnabled (s : State) : Bool :=
  match s.seq with
  | .idle => false
  | .run _ work =>
    if work.atEmit then decide (s.outFifo.length < s.params.outDepth)
    else if work.atTake then !s.inFifo.isEmpty
    else true

/-- Who moves next: the next turn of the prescribed interleaving; when none is left, an enabled engine step goes
first, so that it eventually happens whatever the host does (R331, log 5). -/
def nextTurn (s : State) : Turn :=
  match s.turns with
  | t :: _ => t
  | [] => if engineEnabled s then .engine else .host

/-- The state with the turn at the head of the interleaving used up. -/
def State.popTurn (s : State) : State := { s with turns := s.turns.tail }

/-- One step of the agent whose turn it is; the reset input may be asserted at any time (R320). -/
def takeTurn (t : Turn) (s : State) : Result :=
  match t with
  | .host => hostTurn s
  | .engine => engineTurn s
  | .resetInput => .next s.resetEngine

end Sys2Proof.Machine
end

