-- ==== Sys2Proof/Machine/Step.lean ====
section
/-! DEFINITION. One step of the machine: one whole access of the host, one engine step, or a reset (20_memory.md R93).
Commands are not fetched at a program counter (10_state.md R56): a command is a word the host writes to `CMD`. -/

namespace Sys2Proof.Machine

/-- One step (R93): the agent whose turn it is moves. -/
def step (s : State) : Host.Outcome State Fault Refusal := takeTurn (nextTurn s) s.popTurn

/-- `s` with `WR CMD, w` as what its very next step does (20_memory.md R94): the write at the head of the host's program,
the host's turn at the head of the interleaving, and no command running, since a `CMD` write is taken only while
`BUSY = 0` (log 6). -/
def State.withFetchWord (s : State) (nbits w : Nat) : State :=
  { s with seq := .idle, host := cmdWord (tableWord nbits w) :: s.host, turns := .host :: s.turns }

end Sys2Proof.Machine
end

