-- ==== Sys2Proof/Safety.lean ====
section
/-! DEFINITION. What claims about runs are stated in: the invariant of the machine's states, and when a run has lost no
host access (70_reset_and_hazards.md R324). -/

namespace Sys2Proof.Machine

/-- Every value fits in `w` bits: bits `[63:w]` read 0 (10_state.md R51, R58). -/
abbrev WordsFit (w : Nat) (regs : List Reg) : Prop := regs.all (fun x => decide (x.toNat < 2 ^ w)) = true

/-- A block register: `N_MAX` Words of `W` bits (R51). -/
abbrev BlockRegWf (p : Params) (regs : List Reg) : Prop := regs.length = p.nMax ∧ WordsFit p.bits regs

/-- The registers and RAMs have the sizes and widths R37 to R39 and R50 to R52 give them. -/
def State.regsWf (s : State) : Bool :=
  decide (WordsFit s.params.bits [s.ema, s.kp, s.kq]
    ∧ BlockRegWf s.params s.blk ∧ BlockRegWf s.params s.nonce ∧ BlockRegWf s.params s.key
    ∧ BlockRegWf s.params s.pwc ∧ BlockRegWf s.params s.pwtag
    ∧ s.sched.length = schedSize s.params ∧ WordsFit s.params.bits s.sched
    ∧ s.lram.length = lramSize s.params)

/-- The FIFOs hold at most their capacity (R53, R54). -/
def State.fifosWf (s : State) : Bool :=
  decide (s.inFifo.length ≤ s.params.inDepth ∧ s.outFifo.length ≤ s.params.outDepth)

/-- `LASTOP` is `CMD[7:0]` (R34, R41), and valid key material was built for a valid `CFG` (R55,
40_round_function.md R164). -/
def State.flagsWf (s : State) : Bool :=
  decide (s.lastop = cmdOp s.cmd ∧ (s.kvalid = true → cfgValid s.params s.cfg = true))

/-- Emitting: with bytes left to emit the block buffer is empty, and a command on its last block has bytes left to
emit (R242, R246). -/
abbrev EmitWf (bb : Nat) (buf out : List Byte) (last : Bool) : Prop :=
  buf.length < bb ∧ out.length ≤ bb ∧ (out ≠ [] → buf = []) ∧ (last = true → out ≠ [])

/-- The working state is one its command can be in (R57): fill counts below the buffer's size, and the key schedule
that FAMILY and HEXKEY select (41_key_schedule.md R181). -/
def workWf (p : Params) (c : Cfg) : Work → Bool
  | .ksBytes k buf total =>
    decide (p.family = .em ∧ c.hexkey = false ∧ k.length = c.n ∧ WordsFit p.bits k
      ∧ buf.length = total % blockBytes p.bits c.n)
  | .ksHex k nibs total =>
    decide (p.family = .em ∧ c.hexkey = true ∧ k.length = c.n ∧ WordsFit p.bits k
      ∧ nibs.length = total % (2 * blockBytes p.bits c.n))
  | .ksDdr n acc => decide (p.family = .ddr ∧ n ≤ p.lMaxBytes ∧ acc = ddrAccInit)
  | .nseed buf _ => decide (buf.length = blockBytes p.bits c.n)
  | .senc buf out last => decide (EmitWf (blockBytes p.bits c.n) buf out last)
  | .sdec buf held out last =>
    decide (EmitWf (blockBytes p.bits c.n) buf out last
      ∧ (held.all (fun h => h.length == blockBytes p.bits c.n)) = true
      ∧ (out ≠ [] → held.isSome = !last))
  | .nop | .pwchk | .pwver | .mix | .unmix | .benc | .bdec | .menc | .mdec | .ninc => true

/-- A running command (R56, R271, R272): it is the command last written to `CMD`, it passed its issue checks, its
snapshot is the live `CFG`, `DONE` and `ERR` are 0, `KVALID` is 0 during `KSCHED`, and its working state is
sound. -/
abbrev State.RunWf (s : State) (c : Cfg) (work : Work) : Prop :=
  c = s.cfg ∧ s.cmd = encode work.op ∧ work.op.wellFormed s.params = true
  ∧ (needsCfg work.op = true → cfgValid s.params c = true)
  ∧ (needsKey work.op = true → s.kvalid = true)
  ∧ (work.op = .ksched → s.kvalid = false)
  ∧ s.done = false ∧ s.err = .none ∧ workWf s.params c work = true

/-- The sequencer: nothing is asked of an idle one. -/
def State.seqWf (s : State) : Bool :=
  match s.seq with
  | .idle => true
  | .run c work => decide (s.RunWf c work)

/-- The invariant of the machine's states. -/
abbrev State.Inv (s : State) : Prop :=
  s.params.wellFormed = true ∧ s.regsWf = true ∧ s.fifosWf = true ∧ s.flagsWf = true ∧ s.seqWf = true

/-- No host access has been lost since the flags were last cleared: no write was dropped (R278, R324) and no token
(R48). -/
def State.noLostAccess (s : State) : Bool := !s.wdrop && !s.inovf

/-- `k` engine steps, with nothing of the host between them (20_memory.md R93). -/
def engineSteps : Nat → State → Result
  | 0, s => .next s
  | k + 1, s =>
    match engineTurn s with
    | .next t => engineSteps k t
    | .fault r => .fault r
    | .refused r => .refused r

/-- `value(V)`: the Block as a big-endian number, word 0 most significant (42_mode_composer.md R221). -/
def blockValue {w : Nat} (v : Block w) : Nat := v.foldl (fun acc x => acc * 2 ^ w + x.toNat) 0

/-- The nonce block after `k` blocks (42_mode_composer.md R226). -/
def nonceAfter {w : Nat} (n : Nat) : Nat → Block w → Block w
  | 0, v => v
  | k + 1, v => nonceAfter n k (nonceInc n v)

end Sys2Proof.Machine
end

