-- ==== Sys2Proof/Certificates/Slice0/Obligations.lean ====
section
/-! DEFINITION. Statements about the engine, for the provers. Each docstring names the rule it formalises. A command's
first phase, its issue, is `IssueRunsTheChecksInOrder`; the per-command statements say what its engine steps do. -/

open Sys2Proof Sys2Proof.Machine

/-! ## Commands: encoding and issue -/

/-- A `CMD` write of a word that decodes to `i`, while no command runs, is `exec i` on the state in which the host has
made that access (44_control.md R271); the sequencer's turn is `exec` of the running command (20_memory.md R93). Every
other host access is the register's own write or read: `WR idx, v` is `writeReg` of the register `idx` names (R125), and
`RD idx` is `readReg` of it (R126), its value kept newest first in `results` (the model's choice, log 14). A host at the
end of its program does nothing (70_reset_and_hazards.md R332). -/
def Obligations.StepRunsTheDecodedCommand : Prop :=
  (∀ (s : State) (i : Instr) (v : Reg) (rest : List HostAct),
    nextTurn s = .host → s.host = .wr 0x005 v :: rest → s.busy = false → decode s.params v = .ok i →
      step s = exec i { s with host := rest, turns := s.turns.tail })
  ∧ (∀ (s : State) (cfg : Cfg) (work : Work), nextTurn s = .engine → s.seq = .run cfg work →
      step s = exec work.op { s with turns := s.turns.tail })
  ∧ (∀ s : State, nextTurn s = .host →
      (∀ (idx : BitVec 12) (v : Reg) (rest : List HostAct), s.host = .wr idx v :: rest →
        step s = State.writeReg (regOf s.params idx) v { s with host := rest, turns := s.turns.tail })
      ∧ (∀ (idx : BitVec 12) (rest : List HostAct), s.host = .rd idx :: rest →
        let x := ({ s with host := rest, turns := s.turns.tail } : State).readReg (regOf s.params idx)
        step s = .next { x.2 with results := .word idx x.1 :: s.results })
      ∧ (s.host = [] → step s = .next { s with turns := s.turns.tail }))

/-- Words written out from the encodings of 30_encoding.md R113, one or more of each opcode group. -/
def Obligations.SampleCommandWordsDecode : Prop :=
  let em := Params.withDefaults .w32 .em
  let ddr := Params.withDefaults .w8 .ddr
  decode em 0x0000000000000000 = .ok .nop
  ∧ decode em 0x0000000000000001 = .ok .ksched
  ∧ decode em 0x0000000000000011 = .ok .unmix
  ∧ decode ddr 0x0000000000000013 = .ok .bdec
  ∧ decode ddr 0x0000000000000021 = .ok .mdec
  ∧ decode ddr 0x0000000000000030 = .ok .senc
  ∧ decode ddr 0x0000000000000010 = .error .notInFamily
  ∧ decode em 0x0000000000000110 = .error .reservedBitsSet
  ∧ decode em 0x0000000000000005 = .error .opcodeUnassigned

/-- R111, R112: a word decodes to `i` exactly when it is `i`'s encoding and the instance has `i`. In particular
decoding the encoding of a well-formed command gives it back, and no two words decode to one command. -/
def Obligations.DecodeAcceptsExactlyTheEncodings : Prop :=
  ∀ (p : Params) (v : Reg) (i : Instr),
    decode p v = .ok i ↔ i.wellFormed p = true ∧ v = encode i

/-- R292 and R115: a word with a reserved bit set, an unassigned opcode, or `MIX` or `UNMIX` in a DDR instance,
changes what acceptance changes and completes with error CMD in the same step. -/
def Obligations.IllegalWordsCompleteWithCmd : Prop :=
  ∀ (s : State) (v : Reg), s.seq = .idle →
    (cmdRsv v ≠ 0
      ∨ cmdOp v ∉ [0x00, 0x01, 0x02, 0x03, 0x04, 0x10, 0x11, 0x12, 0x13, 0x20, 0x21, 0x22, 0x30, 0x31]
      ∨ (cmdOp v ∈ [0x10, 0x11] ∧ s.params.family = .ddr)) →
    s.writeReg .cmd v
      = .next { s with cmd := v, lastop := cmdOp v, err := .cmd, done := true, incnt := 0, outcnt := 0 }

/-- R295 with R271: issuing command `i`. While `BUSY = 1` the write is dropped. Otherwise the acceptance effects,
`KVALID` cleared for `KSCHED` before its checks, and the first failing check of CMD, PARAM, NOKEY reported; a command
that passes starts with the `CFG` snapshot and the initial working state of its own rule (10_state.md R57): R181 with
R183, R186, R188 and R191 for `KSCHED`, R195 for `NSEED`, R242 for `SENC`, R246 for `SDEC`. In that working state three
things are the model's: a buffer is the list of what it holds (DESIGN CHOICE, log 10), `A`, `B`, `i` and `j` are held
from the issue on (DEDUCED, log 11), and their zero start is what R191 takes from general knowledge (GK2, PRESUMED,
log 20). -/
def Obligations.IssueRunsTheChecksInOrder : Prop :=
  ∀ (i : Instr) (s : State),
    (s.busy = true → s.writeReg .cmd (encode i) = .next { s with wdrop := true })
    ∧ (s.busy = false →
        let accepted : State :=
          { s with
            cmd := encode i, lastop := i.opcode, err := .none, done := false, incnt := 0, outcnt := 0
            kvalid := if i = .ksched then false else s.kvalid }
        let failed : ErrCode → State := fun code => { accepted with err := code, done := true }
        let n := s.cfg.nwords.toNat
        let start : Work :=
          match i with
          | .ksched =>
            if s.params.family = .ddr then .ksDdr 0 { a := 0, b := 0, i := 0, j := 0 }
            else if s.cfg.hexkey then .ksHex (List.replicate n 0) [] 0
            else .ksBytes (List.replicate n 0) [] 0
          | .nseed => .nseed (List.replicate (n * (s.params.bits / 8)) 0) 0
          | .senc => .senc [] [] false
          | .sdec => .sdec [] none [] false
          | .nop => .nop
          | .pwchk => .pwchk
          | .pwver => .pwver
          | .mix => .mix
          | .unmix => .unmix
          | .benc => .benc
          | .bdec => .bdec
          | .menc => .menc
          | .mdec => .mdec
          | .ninc => .ninc
        s.writeReg .cmd (encode i) = exec i s
        ∧ exec i s = .next (
            if (i = .mix ∨ i = .unmix) ∧ s.params.family = .ddr then failed .cmd
            else if i ≠ .nop ∧ cfgValid s.params s.cfg = false then failed .param
            else if i ∈ [Instr.pwchk, .pwver, .benc, .bdec, .menc, .mdec, .senc, .sdec] ∧ s.kvalid = false then
              failed .noKey
            else { accepted with seq := .run s.cfg start }))

/-- R40: `CfgValid`, with the power of two said as one. -/
def Obligations.CfgValidMeansTheFourConditions : Prop :=
  ∀ (p : Params) (c : Cfg),
    cfgValid p c = true ↔
      (1 ≤ c.rounds.toNat ∧ c.rounds.toNat ≤ p.rMax)
      ∧ (2 ≤ c.nwords.toNat ∧ c.nwords.toNat ≤ p.nMax)
      ∧ (p.p2req = true → ∃ k, c.nwords.toNat = 2 ^ k)
      ∧ (p.family = .ddr → c.hexkey = false)

/-! ## The Round Function -/

/-- R141: what the left rotation is, as the rule's shifts, and bit by bit: bit `i` goes to place `(i + k) mod W`. R142:
the right rotation is the left one by the rest of the width, and it undoes the left rotation (the last is the spec's own
inference, "derived: from rule R141"). -/
def Obligations.RotrUndoesRotl : Prop :=
  ∀ (w : Nat) (a : Word w) (k : Nat),
    rotl a k = (if k % w = 0 then a else (a <<< (k % w)) ||| (a >>> (w - k % w)))
    ∧ (∀ i, i < w → (rotl a k).getLsbD ((i + k) % w) = a.getLsbD i)
    ∧ rotr a k = (if k % w ≠ 0 then rotl a (w - k % w) else a)
    ∧ rotr (rotl a k) k = a

/-- R144: the two formulas of `f`, logical shifts with `EMROT = 0` and one-bit rotations with `EMROT = 1`. R148: `f` is
affine over GF(2), and so are `round`, `Mix` and `E` of the EM family, on Blocks of `n` Words. The spec marks R148 as its
own inference ("derived: from rule R144"). -/
def Obligations.EmFunctionsAreAffine : Prop :=
  ∀ (w n k : Nat) (emrot : Bool) (a : Word w),
    (∀ x : Word w, emF false a x = (x <<< 1) ^^^ x ^^^ (x >>> 1) ^^^ a
        ∧ emF true a x = rotl x 1 ^^^ x ^^^ rotr x 1 ^^^ a)
    ∧ (∀ x y : Word w, emF emrot a (x ^^^ y) = emF emrot a x ^^^ emF emrot a y ^^^ a)
    ∧ (∀ x y z key : Block w, x.length = n → y.length = n → z.length = n → key.length = n →
        emRound emrot a n (xorBlock (xorBlock x y) z)
            = xorBlock (xorBlock (emRound emrot a n x) (emRound emrot a n y)) (emRound emrot a n z)
        ∧ emMix emrot a n k (xorBlock (xorBlock x y) z)
            = xorBlock (xorBlock (emMix emrot a n k x) (emMix emrot a n k y)) (emMix emrot a n k z)
        ∧ emEncrypt emrot a n k key (xorBlock (xorBlock x y) z)
            = xorBlock (xorBlock (emEncrypt emrot a n k key x) (emEncrypt emrot a n k key y))
                (emEncrypt emrot a n k key z))

/-- R145 and R146, word by word, on a Block `x` of `n` Words. In `round`, pass 1 gives `y` with each word taking its left
neighbour's new value, and pass 2 gives the result with each word taking its right neighbour's new value; in `unround`,
undoing pass 2 takes the right neighbours' old values, and undoing pass 1 the left neighbours' old values. The end word a
pass does not change stays. R147: they undo each other: the spec's own inference ("derived: from rules R145 and R146"). -/
def Obligations.UnroundUndoesRound : Prop :=
  ∀ (w n : Nat) (emrot : Bool) (a : Word w) (x : Block w),
    emUnround emrot a n (emRound emrot a n x) = x ∧ emRound emrot a n (emUnround emrot a n x) = x
    ∧ (x.length = n →
        (∃ y : Block w, y.length = n ∧ y.getD 0 0 = x.getD 0 0
          ∧ (∀ j, j + 1 < n → y.getD (j + 1) 0 = x.getD (j + 1) 0 ^^^ emF emrot a (y.getD j 0))
          ∧ (let z := emRound emrot a n x
             z.length = n ∧ z.getD (n - 1) 0 = y.getD (n - 1) 0
             ∧ ∀ j, j + 1 < n → z.getD j 0 = y.getD j 0 ^^^ emF emrot a (z.getD (j + 1) 0)))
        ∧ (∃ y : Block w, y.length = n ∧ y.getD (n - 1) 0 = x.getD (n - 1) 0
          ∧ (∀ j, j + 1 < n → y.getD j 0 = x.getD j 0 ^^^ emF emrot a (x.getD (j + 1) 0))
          ∧ (let z := emUnround emrot a n x
             z.length = n ∧ z.getD 0 0 = y.getD 0 0
             ∧ ∀ j, j + 1 < n → z.getD (j + 1) 0 = y.getD (j + 1) 0 ^^^ emF emrot a (y.getD j 0))))

/-- R150: `Mix` applies `round` `k` times. R151: `Unmix` applies `unround` `k` times, and undoes `Mix` (the last is the
spec's own inference, "derived: from rules R147 and R150"). -/
def Obligations.UnmixUndoesMix : Prop :=
  ∀ (w n : Nat) (emrot : Bool) (a : Word w) (x : Block w) (k : Nat),
    emMix emrot a n 0 x = x
    ∧ emMix emrot a n (k + 1) x = emRound emrot a n (emMix emrot a n k x)
    ∧ emUnmix emrot a n 0 x = x
    ∧ emUnmix emrot a n (k + 1) x = emUnround emrot a n (emUnmix emrot a n k x)
    ∧ emUnmix emrot a n k (emMix emrot a n k x) = x

/-- R152 and R153: what the forward and the inverse micro-step do to each word, and that the second undoes the first
(the spec's own inference, "derived: from rules R141, R142 and R152"). -/
def Obligations.DdrStepAndItsInverse : Prop :=
  ∀ (w n : Nat) (sched b : Block w) (i : Nat), 2 ≤ n → b.length = n →
    (ddrStep n sched b i).length = n
    ∧ (ddrStep n sched b i).getD (i % n) 0
        = rotl (b.getD (i % n) 0 ^^^ b.getD ((i + 1) % n) 0) (b.getD ((i + 1) % n) 0).toNat + sched.getD (i + 1) 0
    ∧ (∀ j, j ≠ i % n → (ddrStep n sched b i).getD j 0 = b.getD j 0)
    ∧ (ddrUnstep n sched b i).getD (i % n) 0
        = rotr (b.getD (i % n) 0 - sched.getD (i + 1) 0) (b.getD ((i + 1) % n) 0).toNat ^^^ b.getD ((i + 1) % n) 0
    ∧ (∀ j, j ≠ i % n → (ddrUnstep n sched b i).getD j 0 = b.getD j 0)
    ∧ ddrUnstep n sched (ddrStep n sched b i) i = b

/-- R161 and R163, where the spec infers it from the rounds: `D` undoes `E` in both families, and `E` undoes `D`: both
are bijective on Blocks of `n` Words (40_round_function.md R140). -/
def Obligations.DecryptUndoesEncrypt : Prop :=
  ∀ (w : Nat) (c : CipherCtx w) (x : Block w), 2 ≤ c.n → x.length = c.n → c.key.length = c.n →
    decryptBlock c (encryptBlock c x) = x ∧ encryptBlock c (decryptBlock c x) = x

/-- `MIX` and `UNMIX` (R165, R166), in their engine step: words `[0 .. N-1]` of `BLK` are transformed, the words above
them and everything else but the completion stay. -/
def Obligations.MixAndUnmixTransformBlk : Prop :=
  ∀ (s : State) (cfg : Cfg), cfg.n ≤ s.blk.length →
    (s.seq = .run cfg .mix →
      ∃ t, exec .mix s = .next t ∧ t = { s with blk := t.blk, err := .none, done := true, seq := .idle }
        ∧ t.blk.length = s.blk.length
        ∧ loadBlock s.params.bits cfg.n t.blk
            = emMix cfg.emrot (s.ema.setWidth s.params.bits) cfg.n cfg.r (loadBlock s.params.bits cfg.n s.blk)
        ∧ ∀ j, cfg.n ≤ j → t.blk.getD j 0 = s.blk.getD j 0)
    ∧ (s.seq = .run cfg .unmix →
      ∃ t, exec .unmix s = .next t ∧ t = { s with blk := t.blk, err := .none, done := true, seq := .idle }
        ∧ t.blk.length = s.blk.length
        ∧ loadBlock s.params.bits cfg.n t.blk
            = emUnmix cfg.emrot (s.ema.setWidth s.params.bits) cfg.n cfg.r (loadBlock s.params.bits cfg.n s.blk)
        ∧ ∀ j, cfg.n ≤ j → t.blk.getD j 0 = s.blk.getD j 0)

/-- `BENC` and `BDEC` (R167, R168), in their engine step, with `E` and `D` written out: in an EM instance from `KEY[0
.. N-1]`, `EMA`, `r` and `EMROT` (R160, R161), in a DDR instance from `SCHED[0 .. t-1]` (R162, R163). -/
def Obligations.BencAndBdecTransformBlk : Prop :=
  ∀ (s : State) (cfg : Cfg), cfg.n ≤ s.blk.length →
    let w := s.params.bits
    let n := cfg.nwords.toNat
    let r := cfg.rounds.toNat
    let a : Word w := s.ema.setWidth w
    let key : Block w := loadBlock w n s.key
    let sched : Block w := loadBlock w (r * n + 2) s.sched
    let enc : Block w → Block w := fun x =>
      match s.params.family with
      | .em => xorBlock (emMix cfg.emrot a n r (xorBlock x key)) key
      | .ddr =>
        let b := (List.range (r * n)).foldl (ddrStep n sched) (x.set 0 (x.getD 0 0 + sched.getD 0 0))
        b.set (n - 1) (b.getD (n - 1) 0 + sched.getD (r * n + 1) 0)
    let dec : Block w → Block w := fun y =>
      match s.params.family with
      | .em => xorBlock (emUnmix cfg.emrot a n r (xorBlock y key)) key
      | .ddr =>
        let b := (List.range (r * n)).reverse.foldl (ddrUnstep n sched)
          (y.set (n - 1) (y.getD (n - 1) 0 - sched.getD (r * n + 1) 0))
        b.set 0 (b.getD 0 0 - sched.getD 0 0)
    (s.seq = .run cfg .benc →
      ∃ t, exec .benc s = .next t ∧ t = { s with blk := t.blk, err := .none, done := true, seq := .idle }
        ∧ t.blk.length = s.blk.length
        ∧ loadBlock w n t.blk = enc (loadBlock w n s.blk)
        ∧ ∀ j, n ≤ j → t.blk.getD j 0 = s.blk.getD j 0)
    ∧ (s.seq = .run cfg .bdec →
      ∃ t, exec .bdec s = .next t ∧ t = { s with blk := t.blk, err := .none, done := true, seq := .idle }
        ∧ t.blk.length = s.blk.length
        ∧ loadBlock w n t.blk = dec (loadBlock w n s.blk)
        ∧ ∀ j, n ≤ j → t.blk.getD j 0 = s.blk.getD j 0)

/-- R168's and R166's corner case: `BDEC` after `BENC` with the same key material restores `BLK`, and `UNMIX` after
`MIX` with the same `CFG` and `EMA` does. -/
def Obligations.InverseCommandsRestoreBlk : Prop :=
  ∀ (s : State) (cfg : Cfg), s.Inv →
    (s.seq = .run cfg .benc →
      ∃ t v, exec .benc s = .next t ∧ exec .bdec { t with seq := .run cfg .bdec } = .next v ∧ v.blk = s.blk)
    ∧ (s.seq = .run cfg .mix →
      ∃ t v, exec .mix s = .next t ∧ exec .unmix { t with seq := .run cfg .unmix } = .next v ∧ v.blk = s.blk)

/-! ## Key schedule, nonce seed and password check -/

/-- `KS_EM_BYTES` (R183, R184) on data and EOF: a byte joins the chunk; a full chunk is mixed into the key block; EOF
mixes in the final chunk with its sentinel, writes `KEY[0 .. N-1]`, sets `KVALID` and completes, in one step. That a
full chunk is mixed in the step of the take is the model's reading (DEDUCED, log 9), and that `INCNT` wraps at 2^64
its choice (log 24). -/
def Obligations.KschedByteModeSteps : Prop :=
  ∀ (s : State) (cfg : Cfg) (k : List Reg) (buf : List Byte) (total : Nat) (rest : List Token),
    s.seq = .run cfg (.ksBytes k buf total) → cfg.n ≤ s.key.length →
    let w := s.params.bits
    let mixed : List Byte → Block w := fun chunk =>
      emMix cfg.emrot (s.ema.setWidth w) cfg.n cfg.r (xorBlock (loadBlock w cfg.n k) (unpack w cfg.n chunk))
    (∀ b, s.inFifo = .data b :: rest →
      exec .ksched s = .next
        { s with
          inFifo := rest, incnt := s.incnt + 1
          seq := .run cfg
            (if buf.length + 1 = blockBytes w cfg.n then
              .ksBytes ((mixed (buf ++ [b])).map (·.setWidth 64)) [] (total + 1)
            else .ksBytes k (buf ++ [b]) (total + 1)) })
    ∧ (s.inFifo = .eof :: rest →
      ∃ t, exec .ksched s = .next t
        ∧ t = { s with inFifo := rest, key := t.key, kvalid := true, err := .none, done := true, seq := .idle }
        ∧ t.key.length = s.key.length
        ∧ loadBlock w cfg.n t.key
            = mixed ((if total = 0 then List.replicate (w / 8) 0 else buf) ++ [0x80])
        ∧ ∀ j, cfg.n ≤ j → t.key.getD j 0 = s.key.getD j 0)

/-- `KS_EM_HEX` (R186, R187) on data and EOF: nibbles instead of bytes, and KEYFMT for a data token above 0x0F, which
leaves `KEY` and `KVALID` as they are and the tokens after it in the IN FIFO. That a full chunk is mixed in the step
of the take is the model's reading (DEDUCED, log 9), and that `INCNT` wraps at 2^64 its choice (log 24). -/
def Obligations.KschedHexModeSteps : Prop :=
  ∀ (s : State) (cfg : Cfg) (k : List Reg) (nibs : List (BitVec 4)) (total : Nat) (rest : List Token),
    s.seq = .run cfg (.ksHex k nibs total) → cfg.n ≤ s.key.length →
    let w := s.params.bits
    let bb := blockBytes w cfg.n
    let mixed : List (BitVec 4) → Block w := fun chunk =>
      emMix cfg.emrot (s.ema.setWidth w) cfg.n cfg.r
        (xorBlock (loadBlock w cfg.n k) (unpack w cfg.n (nibpack bb chunk)))
    (∀ b : Byte, s.inFifo = .data b :: rest → b.toNat ≤ 0x0F →
      exec .ksched s = .next
        { s with
          inFifo := rest, incnt := s.incnt + 1
          seq := .run cfg
            (if nibs.length + 1 = 2 * bb then
              .ksHex ((mixed (nibs ++ [b.setWidth 4])).map (·.setWidth 64)) [] (total + 1)
            else .ksHex k (nibs ++ [b.setWidth 4]) (total + 1)) })
    ∧ (∀ b : Byte, s.inFifo = .data b :: rest → 0x0F < b.toNat →
      exec .ksched s = .next
        { s with inFifo := rest, incnt := s.incnt + 1, err := .keyFmt, done := true, seq := .idle })
    ∧ (s.inFifo = .eof :: rest →
      ∃ t, exec .ksched s = .next t
        ∧ t = { s with inFifo := rest, key := t.key, kvalid := true, err := .none, done := true, seq := .idle }
        ∧ t.key.length = s.key.length
        ∧ loadBlock w cfg.n t.key
            = mixed ((if total = 0 then List.replicate (2 * (w / 8)) 0 else nibs) ++ [0x8])
        ∧ ∀ j, cfg.n ≤ j → t.key.getD j 0 = s.key.getD j 0)

/-- `KS_DDR` (R188, R194) on data and EOF: a byte goes to `LRAM`, the byte after `L_MAX_BYTES` raises KEYLEN, and EOF
writes `SCHED[0 .. t-1]`, sets `KVALID` and completes. `LRAM` is then any value (10_state.md R52). That `INCNT` wraps
at 2^64 is the model's choice (log 24). -/
def Obligations.KschedDdrSteps : Prop :=
  ∀ (s : State) (cfg : Cfg) (n : Nat) (acc : DdrAcc) (rest : List Token),
    s.seq = .run cfg (.ksDdr n acc) → cfg.t ≤ s.sched.length →
    let w := s.params.bits
    (∀ b, s.inFifo = .data b :: rest → n ≠ s.params.lMaxBytes →
      exec .ksched s = .next
        { s with
          inFifo := rest, incnt := s.incnt + 1, lram := s.lram.set n b, seq := .run cfg (.ksDdr (n + 1) acc) })
    ∧ (∀ b, s.inFifo = .data b :: rest → n = s.params.lMaxBytes →
      ∃ t, exec .ksched s = .next t ∧ t.err = .keyLen ∧ t.done = true ∧ t.seq = .idle ∧ t.kvalid = s.kvalid
        ∧ t.inFifo = rest)
    ∧ (s.inFifo = .eof :: rest →
      ∃ t, exec .ksched s = .next t
        ∧ t = { s with
                inFifo := rest, sched := t.sched, lram := t.lram, free := t.free
                kvalid := true, err := .none, done := true, seq := .idle }
        ∧ t.sched.length = s.sched.length
        ∧ loadBlock w cfg.t t.sched
            = ddrExpand cfg.srot cfg.t (s.kp.setWidth w) (s.kq.setWidth w) acc (s.lram.take n)
        ∧ ∀ j, cfg.t ≤ j → t.sched.getD j 0 = s.sched.getD j 0)

/-- R303's row for `KSCHED`: after IO, KEYLEN or KEYFMT `KVALID` is as it was (0 since acceptance), the failing token
and no later one has been taken, and nothing but the three key RAMs, the counts, the flags and the sequencer has
changed; that words `[N ..]` of `KEY` stay is the model's choice (log 3): 10_state.md R51 set against R194, R303 and
U2, which leave all of `KEY` open. That `INCNT` wraps at 2^64 is its choice too (log 24). -/
def Obligations.KschedFailureState : Prop :=
  ∀ (s t : State) (cfg : Cfg) (work : Work) (tok : Token) (rest : List Token),
    s.seq = .run cfg work → work.op = .ksched → s.inFifo = tok :: rest → exec .ksched s = .next t → t.err ≠ .none →
    s.err = .none →
      t = { s with
            inFifo := rest, incnt := if isData tok then s.incnt + 1 else s.incnt
            key := t.key, sched := t.sched, lram := t.lram, free := t.free
            err := t.err, done := true, seq := .idle }
      ∧ t.err ∈ [ErrCode.io, .keyLen, .keyFmt]
      ∧ (∀ j, cfg.n ≤ j → t.key.getD j 0 = s.key.getD j 0)

/-- `DDR_EXPAND` (R189 to R193). `c = max(1, ceil(n/u))` key words; an empty passphrase is one zero key word; `S[i] =
KP + i*KQ` before mixing; the schedule has `t` words. One pass of the mixing loop updates S and then L, each with the
current `A + B`, the S update rotating by `x mod W` or with SROT by 3 (R192); the schedule is what `S` holds after `3
* max(t, c)` passes. The spec takes the loop's conventions from general knowledge (R191, GK2, GK3: log 20). -/
def Obligations.DdrExpandArrays : Prop :=
  ∀ (wd : WordWidth) (srot : Bool) (t : Nat) (kp kq : Word wd.bits) (acc : DdrAcc) (bytes : List Byte),
    let c := if bytes = [] then 1 else (bytes.length + wd.bits / 8 - 1) / (wd.bits / 8)
    let pass : DdrLoop wd.bits → DdrLoop wd.bits := fun d =>
      let x := d.a + d.b
      let a := rotl (d.s.getD d.i 0 + x) (if srot then 3 else x.toNat % wd.bits)
      let y := a + d.b
      let b := rotl (d.l.getD d.j 0 + y) (y.toNat % wd.bits)
      { a := a, b := b, i := (d.i + 1) % t, j := (d.j + 1) % c, s := d.s.set d.i a, l := d.l.set d.j b }
    keyWordLength wd.bits bytes.length = c
    ∧ (ddrKeyWords wd.bits bytes).length = c
    ∧ (∀ j, j < c → (ddrKeyWords wd.bits bytes).getD j 0
        = wordOfBytes wd.bits
            ((List.range (wd.bits / 8)).map (fun q => bytes.getD (j * (wd.bits / 8) + q) 0)))
    ∧ ddrKeyWords wd.bits [] = [0]
    ∧ (∀ i, i < t → (ddrSchedInit kp kq t).getD i 0 = kp + BitVec.ofNat wd.bits i * kq)
    ∧ (ddrExpand srot t kp kq acc bytes).length = t
    ∧ ddrExpand srot t kp kq { a := 0, b := 0, i := 0, j := 0 } bytes
        = (Nat.iterate pass (3 * max t c)
            { a := 0, b := 0, i := 0, j := 0, s := ddrSchedInit kp kq t, l := ddrKeyWords wd.bits bytes }).s

/-- The last sentence of R186, the spec's own inference ("derived: from rules R184 and R186"): an empty hex passphrase
gives the same `KEY` as an empty byte passphrase. `bs` is the state at EOF in byte mode, and the same state with the
hex mode's snapshot and working state is the one in hex mode. -/
def Obligations.EmptyHexPassphraseGivesTheSameKey : Prop :=
  ∀ (bs : State) (cfg : Cfg) (k : List Reg) (rest : List Token),
    cfgValid bs.params cfg = true →
    bs.seq = .run cfg (.ksBytes k [] 0) → bs.inFifo = .eof :: rest →
      ∃ t u, exec .ksched bs = .next t
        ∧ exec .ksched { bs with seq := .run { cfg with hexkey := true } (.ksHex k [] 0) } = .next u
        ∧ u.key = t.key ∧ u.err = .none ∧ t.err = .none

/-- `NSEED` (R195): data folds into the seed buffer by exclusive-or, cyclically; EOF writes `NONCE[0 .. N-1]`; ERR and
reserved tokens end it with IO and leave `NONCE`. That EOF completes in the step of its take is the model's reading
(DEDUCED, log 9), and that `INCNT` wraps at 2^64 its choice (log 24). -/
def Obligations.NseedSteps : Prop :=
  ∀ (s : State) (cfg : Cfg) (buf : List Byte) (k : Nat) (rest : List Token),
    s.seq = .run cfg (.nseed buf k) → cfg.n ≤ s.nonce.length →
    let w := s.params.bits
    let at' := k % blockBytes w cfg.n
    (∀ b, s.inFifo = .data b :: rest →
      exec .nseed s = .next
        { s with
          inFifo := rest, incnt := s.incnt + 1
          seq := .run cfg (.nseed (buf.set at' (buf.getD at' 0 ^^^ b)) (k + 1)) })
    ∧ (s.inFifo = .eof :: rest →
      ∃ t, exec .nseed s = .next t
        ∧ t = { s with inFifo := rest, nonce := t.nonce, err := .none, done := true, seq := .idle }
        ∧ t.nonce.length = s.nonce.length
        ∧ loadBlock w cfg.n t.nonce = unpack w cfg.n buf
        ∧ ∀ j, cfg.n ≤ j → t.nonce.getD j 0 = s.nonce.getD j 0)
    ∧ (∀ tok, tok = .err ∨ tok = .reserved → s.inFifo = tok :: rest →
      exec .nseed s = .next { s with inFifo := rest, err := .io, done := true, seq := .idle })

/-- `PWCHK` and `PWVER` (R196, R197): the check block goes to `PWC[0 .. N-1]` in both; `PWVER` completes with
PWMISMATCH exactly when a compared word differs from `PWTAG`. -/
def Obligations.PasswordCheckCommands : Prop :=
  ∀ (s : State) (cfg : Cfg), cfg.n ≤ s.pwc.length → 1 ≤ cfg.n →
    let w := s.params.bits
    let check : Block w :=
      match s.params.family with
      | .em => emEncrypt cfg.emrot (s.ema.setWidth w) cfg.n (4 * cfg.r) (loadBlock w cfg.n s.key)
                (List.replicate cfg.n 0)
      | .ddr => ddrEncrypt cfg.r cfg.n (loadBlock w (cfg.r * cfg.n + 2) s.sched) (List.replicate cfg.n 0)
    (s.seq = .run cfg .pwchk →
      ∃ t, exec .pwchk s = .next t ∧ t = { s with pwc := t.pwc, err := .none, done := true, seq := .idle }
        ∧ t.pwc.length = s.pwc.length ∧ loadBlock w cfg.n t.pwc = check
        ∧ ∀ j, cfg.n ≤ j → t.pwc.getD j 0 = s.pwc.getD j 0)
    ∧ (s.seq = .run cfg .pwver →
      ∃ t, exec .pwver s = .next t ∧ t = { s with pwc := t.pwc, err := t.err, done := true, seq := .idle }
        ∧ t.pwc.length = s.pwc.length ∧ loadBlock w cfg.n t.pwc = check
        ∧ (∀ j, cfg.n ≤ j → t.pwc.getD j 0 = s.pwc.getD j 0)
        ∧ t.err = (if ∀ j, j < (if cfg.pwfull then cfg.n else 1) →
                        check.getD j 0 = (s.pwtag.getD j 0).setWidth w
                   then .none else .pwMismatch))

/-! ## The Mode Composer -/

/-- R221: `inc` adds 1 to the nonce as a big-endian number, modulo `2^(N*W)`. -/
def Obligations.NonceIncAddsOne : Prop :=
  ∀ (w n : Nat) (v : Block w), 1 ≤ n → v.length = n →
    (nonceInc n v).length = n ∧ blockValue (nonceInc n v) = (blockValue v + 1) % 2 ^ (n * w)

/-- `MENC` and `MDEC` (R223, R224), in their engine step, with the operands of `E` and `D` written out: `KEY[0 ..
N-1]`, `EMA`, `r` and `EMROT` in an EM instance, `SCHED[0 .. t-1]` in a DDR instance. -/
def Obligations.MencAndMdecTransformBlk : Prop :=
  ∀ (s : State) (cfg : Cfg), cfg.n ≤ s.blk.length → cfg.n ≤ s.nonce.length →
    let w := s.params.bits
    let a : Word w := s.ema.setWidth w
    let key : Block w := loadBlock w cfg.n s.key
    let sched : Block w := loadBlock w (cfg.r * cfg.n + 2) s.sched
    let enc : Block w → Block w := fun b =>
      match s.params.family with
      | .em => emEncrypt cfg.emrot a cfg.n cfg.r key b
      | .ddr => ddrEncrypt cfg.r cfg.n sched b
    let dec : Block w → Block w := fun b =>
      match s.params.family with
      | .em => emDecrypt cfg.emrot a cfg.n cfg.r key b
      | .ddr => ddrDecrypt cfg.r cfg.n sched b
    let keystream : Block w := enc (loadBlock w cfg.n s.nonce)
    let x : Block w := loadBlock w cfg.n s.blk
    (s.seq = .run cfg .menc →
      ∃ t, exec .menc s = .next t
        ∧ t = { s with
                blk := t.blk, nonce := t.nonce, blkcnt := s.blkcnt + 1, err := .none, done := true, seq := .idle }
        ∧ t.blk.length = s.blk.length ∧ t.nonce.length = s.nonce.length
        ∧ loadBlock w cfg.n t.blk = enc (xorBlock x keystream)
        ∧ loadBlock w cfg.n t.nonce = nonceInc cfg.n (loadBlock w cfg.n s.nonce)
        ∧ ∀ j, cfg.n ≤ j → t.blk.getD j 0 = s.blk.getD j 0 ∧ t.nonce.getD j 0 = s.nonce.getD j 0)
    ∧ (s.seq = .run cfg .mdec →
      ∃ t, exec .mdec s = .next t
        ∧ t = { s with
                blk := t.blk, nonce := t.nonce, blkcnt := s.blkcnt + 1, err := .none, done := true, seq := .idle }
        ∧ t.blk.length = s.blk.length ∧ t.nonce.length = s.nonce.length
        ∧ loadBlock w cfg.n t.blk = xorBlock (dec x) keystream
        ∧ loadBlock w cfg.n t.nonce = nonceInc cfg.n (loadBlock w cfg.n s.nonce)
        ∧ ∀ j, cfg.n ≤ j → t.blk.getD j 0 = s.blk.getD j 0 ∧ t.nonce.getD j 0 = s.nonce.getD j 0)

/-- `NINC` (R225), in its engine step: the nonce alone. -/
def Obligations.NincIncrementsNonce : Prop :=
  ∀ (s : State) (cfg : Cfg), s.seq = .run cfg .ninc → cfg.n ≤ s.nonce.length →
    ∃ t, exec .ninc s = .next t ∧ t = { s with nonce := t.nonce, err := .none, done := true, seq := .idle }
      ∧ t.nonce.length = s.nonce.length
      ∧ loadBlock s.params.bits cfg.n t.nonce = nonceInc cfg.n (loadBlock s.params.bits cfg.n s.nonce)
      ∧ ∀ j, cfg.n ≤ j → t.nonce.getD j 0 = s.nonce.getD j 0

/-- R226, the spec's own inference: `MDEC` from the nonce `MENC` started from restores `BLK`, and both leave the same
`NONCE`; and `k` blocks advance the nonce by `k` modulo `2^(N*W)`. -/
def Obligations.ModeComposerLockstep : Prop :=
  (∀ (s : State) (cfg : Cfg), s.Inv → s.seq = .run cfg .menc →
    ∃ t v, exec .menc s = .next t
      ∧ exec .mdec { t with seq := .run cfg .mdec, nonce := s.nonce } = .next v
      ∧ v.blk = s.blk ∧ v.nonce = t.nonce
      ∧ loadBlock s.params.bits cfg.n t.nonce = nonceInc cfg.n (loadBlock s.params.bits cfg.n s.nonce))
  ∧ (∀ (w n k : Nat) (v : Block w), 1 ≤ n → v.length = n →
      blockValue (nonceAfter n k v) = (blockValue v + k) % 2 ^ (n * w))

/-! ## The Streaming Codec -/

/-- R82: `pack` is big-endian in words and in blocks, and `unpack` is its inverse. -/
def Obligations.PackIsBigEndianAndUnpackInvertsIt : Prop :=
  ∀ (wd : WordWidth) (n : Nat),
    let w := wd.bits
    let u := w / 8
    (∀ x : Block w, x.length = n →
      (pack x).length = n * u
      ∧ (∀ k, k < n * u → (pack x).getD k 0 = (x.getD (k / u) 0).extractLsb' (w - 8 - 8 * (k % u)) 8)
      ∧ unpack w n (pack x) = x)
    ∧ (∀ bytes : List Byte, bytes.length = n * u → pack (unpack w n bytes) = bytes)

/-- R248 and R249: the scan finds the last non-zero byte, and 0 when there is none. -/
def Obligations.LastNonZeroFindsTheLast : Prop :=
  ∀ bytes : List Byte,
    ((∃ k, bytes.getD k 0 ≠ 0) →
      bytes.getD (lastNonZero bytes) 0 ≠ 0 ∧ ∀ j, lastNonZero bytes < j → bytes.getD j 0 = 0)
    ∧ ((∀ k, bytes.getD k 0 = 0) → lastNonZero bytes = 0)

/-- `SENC` taking a token (R242 to R245). A byte below a full block is buffered; the byte that fills the block, and
EOF with the sentinel after the pending bytes, encrypt it, advance `NONCE` and `BLKCNT`, and start emitting; ERR and
reserved tokens end it with IO. That the encryption and the advances are in the step of the take is the model's
reading (DEDUCED, log 9): those rules fix what is computed, not the step. That `INCNT` wraps at 2^64 is the model's
choice (log 24). -/
def Obligations.SencTakeSteps : Prop :=
  ∀ (s : State) (cfg : Cfg) (buf : List Byte) (rest : List Token),
    s.seq = .run cfg (.senc buf [] false) → 1 ≤ cfg.n →
    let w := s.params.bits
    let c := s.cipher cfg
    let v : Block w := loadBlock w cfg.n s.nonce
    let cipherBytes : List Byte → List Byte := fun bytes =>
      pack (encryptBlock c (xorBlock (unpack w cfg.n bytes) (encryptBlock c v)))
    let taken : State := { s with inFifo := rest }
    (∀ b, s.inFifo = .data b :: rest → buf.length + 1 ≠ blockBytes w cfg.n →
      exec .senc s = .next { taken with incnt := s.incnt + 1, seq := .run cfg (.senc (buf ++ [b]) [] false) })
    ∧ (∀ b, s.inFifo = .data b :: rest → buf.length + 1 = blockBytes w cfg.n →
      exec .senc s = .next
        { taken with
          incnt := s.incnt + 1, nonce := storeBlock (nonceInc cfg.n v) s.nonce, blkcnt := s.blkcnt + 1
          seq := .run cfg (.senc [] (cipherBytes (buf ++ [b])) false) })
    ∧ (s.inFifo = .eof :: rest →
      exec .senc s = .next
        { taken with
          nonce := storeBlock (nonceInc cfg.n v) s.nonce, blkcnt := s.blkcnt + 1
          seq := .run cfg (.senc [] (cipherBytes (buf ++ [0x80])) true) })
    ∧ (∀ tok, tok = .err ∨ tok = .reserved → s.inFifo = tok :: rest →
      exec .senc s = .next { taken with err := .io, done := true, seq := .idle })

/-- `SDEC` taking a token (R246 to R251). The byte that completes block `k+1` decrypts the held block `k` and holds
the new one; EOF at a block boundary decrypts the held block and emits the bytes before its last non-zero one; EOF
with a partial block, or with none held, is TRUNC and decrypts nothing; ERR and reserved tokens end it with IO. That
the decryption, the scan, the advances of `NONCE` and `BLKCNT`, and the completion when nothing is to be emitted are
in the step of the take is the model's reading (DEDUCED, log 9). That `INCNT` wraps at 2^64 is the model's choice
(log 24). -/
def Obligations.SdecTakeSteps : Prop :=
  ∀ (s : State) (cfg : Cfg) (buf : List Byte) (held : Option (List Byte)) (rest : List Token),
    s.seq = .run cfg (.sdec buf held [] false) →
    let w := s.params.bits
    let c := s.cipher cfg
    let v : Block w := loadBlock w cfg.n s.nonce
    let plainBytes : List Byte → List Byte := fun bytes =>
      pack (xorBlock (decryptBlock c (unpack w cfg.n bytes)) (encryptBlock c v))
    let taken : State := { s with inFifo := rest }
    let advanced : State :=
      { taken with nonce := storeBlock (nonceInc cfg.n v) s.nonce, blkcnt := s.blkcnt + 1 }
    (∀ b, s.inFifo = .data b :: rest →
      exec .sdec s = .next
        (if buf.length + 1 ≠ blockBytes w cfg.n then
          { taken with incnt := s.incnt + 1, seq := .run cfg (.sdec (buf ++ [b]) held [] false) }
        else
          match held with
          | none => { taken with incnt := s.incnt + 1, seq := .run cfg (.sdec [] (some (buf ++ [b])) [] false) }
          | some h =>
            { advanced with
              incnt := s.incnt + 1, seq := .run cfg (.sdec [] (some (buf ++ [b])) (plainBytes h) false) }))
    ∧ (s.inFifo = .eof :: rest →
      exec .sdec s = .next
        (match buf, held with
          | [], some h =>
            let p := lastNonZero (plainBytes h)
            if (plainBytes h).take p = [] then { advanced with err := .none, done := true, seq := .idle }
            else { advanced with seq := .run cfg (.sdec [] none ((plainBytes h).take p) true) }
          | _, _ => { taken with err := .trunc, done := true, seq := .idle }))
    ∧ (∀ tok, tok = .err ∨ tok = .reserved → s.inFifo = tok :: rest →
      exec .sdec s = .next { taken with err := .io, done := true, seq := .idle })

/-- `emit()` in `SENC` and `SDEC` (R91): with room, the byte goes to the tail of the OUT FIFO and is counted, and the
last byte of the last block completes the command; with the OUT FIFO full nothing changes. That the completion is in
the very step of the last emit is the model's reading (DEDUCED, log 9): no rule places `complete()` in that step. That
`OUTCNT` wraps at 2^64 is the model's choice (log 24). -/
def Obligations.EmitSteps : Prop :=
  ∀ (s : State) (cfg : Cfg) (buf : List Byte) (held : Option (List Byte)) (b : Byte) (out : List Byte) (last : Bool),
    let emitted : State := { s with outFifo := s.outFifo ++ [b], outcnt := s.outcnt + 1 }
    let finished : State := { emitted with err := .none, done := true, seq := .idle }
    (s.seq = .run cfg (.senc buf (b :: out) last) →
      exec .senc s = .next
        (if s.params.outDepth ≤ s.outFifo.length then s
         else if out = [] ∧ last = true then finished
         else { emitted with seq := .run cfg (.senc buf out last) }))
    ∧ (s.seq = .run cfg (.sdec buf held (b :: out) last) →
      exec .sdec s = .next
        (if s.params.outDepth ≤ s.outFifo.length then s
         else if out = [] ∧ last = true then finished
         else { emitted with seq := .run cfg (.sdec buf held out last) }))

/-- R244 with R252, the spec's own inferences, for a stream that is queued whole and whose output fits the room in the
OUT FIFO (longer streams, drained and fed while the command runs, are not covered): `SENC` of `Lp` bytes and EOF
completes with error 0; it emits `BB * (floor(Lp/BB) + 1)` bytes, advances `NONCE` and `BLKCNT` by `floor(Lp/BB) + 1`,
and leaves the tokens after EOF queued. That `INCNT` and `OUTCNT` wrap at 2^64 is the model's choice (log 24). -/
def Obligations.SencOutputCount : Prop :=
  ∀ (s : State) (cfg : Cfg) (pt : List Byte) (rest : List Token),
    cfgValid s.params cfg = true → cfg.n ≤ s.nonce.length →
    s.seq = .run cfg (.senc [] [] false) → s.inFifo = pt.map .data ++ .eof :: rest →
    let bb := blockBytes s.params.bits cfg.n
    let blocks := pt.length / bb + 1
    s.outFifo.length + bb * blocks ≤ s.params.outDepth →
      ∃ k t, engineSteps k s = .next t ∧ t.seq = .idle ∧ t.err = .none ∧ t.done = true
        ∧ t.outFifo.length = s.outFifo.length + bb * blocks
        ∧ t.outcnt = s.outcnt + BitVec.ofNat 64 (bb * blocks) ∧ t.incnt = s.incnt + BitVec.ofNat 64 pt.length
        ∧ t.blkcnt = s.blkcnt + BitVec.ofNat 64 blocks
        ∧ loadBlock s.params.bits cfg.n t.nonce = nonceAfter cfg.n blocks (loadBlock s.params.bits cfg.n s.nonce)
        ∧ t.inFifo = rest ∧ t.blk = s.blk

/-- R254, the spec's own inference, for plaintexts whose ciphertext fits the OUT FIFO (longer ones are not covered):
for any key material, starting nonce and plaintext, `SDEC` of what `SENC` emitted, from the same nonce, completes with
error 0 and emits exactly the plaintext (whatever its last byte: R255). -/
def Obligations.SdecOfSencIsThePlaintext : Prop :=
  ∀ (s : State) (cfg : Cfg) (pt : List Byte) (rest rest' : List Token),
    cfgValid s.params cfg = true → cfg.n ≤ s.nonce.length →
    s.seq = .run cfg (.senc [] [] false) → s.inFifo = pt.map .data ++ .eof :: rest → s.outFifo = [] →
    blockBytes s.params.bits cfg.n * (pt.length / blockBytes s.params.bits cfg.n + 1) ≤ s.params.outDepth →
      ∃ k t k' v, engineSteps k s = .next t ∧ t.seq = .idle ∧ t.err = .none
        ∧ engineSteps k'
            { s with
              seq := .run cfg (.sdec [] none [] false), inFifo := t.outFifo.map .data ++ .eof :: rest' } = .next v
        ∧ v.seq = .idle ∧ v.err = .none ∧ v.outFifo = pt ∧ v.inFifo = rest'

/-- R298: an ERR or reserved token ends each of the four stream-reading commands with IO at once, and no later token
is taken; a full OUT FIFO is no error, it holds the command. -/
def Obligations.ErrTokensEndStreamCommandsWithIo : Prop :=
  ∀ (s : State) (cfg : Cfg) (work : Work), s.seq = .run cfg work →
    (∀ (tok : Token) (rest : List Token), work.op ∈ [Instr.ksched, .nseed, .senc, .sdec] → work.atEmit = false →
      tok = .err ∨ tok = .reserved → s.inFifo = tok :: rest →
        ∃ t, exec work.op s = .next t ∧ t.err = .io ∧ t.done = true ∧ t.seq = .idle ∧ t.inFifo = rest
          ∧ t.outFifo = s.outFifo ∧ t.nonce = s.nonce ∧ t.blkcnt = s.blkcnt ∧ t.incnt = s.incnt)
    ∧ (work.atEmit = true → s.params.outDepth ≤ s.outFifo.length → exec work.op s = .next s)

/-! ## Control, errors and progress -/

/-- `NOP` (R270), in its engine step: `DONE` is set and nothing else changes. -/
def Obligations.NopOnlyCompletes : Prop :=
  ∀ (s : State) (cfg : Cfg), s.seq = .run cfg .nop →
    exec .nop s = .next { s with err := .none, done := true, seq := .idle }

/-- R282's row for a holding command: `take()` on an empty IN FIFO and `emit()` on a full OUT FIFO leave the state
unchanged, and only then is the engine step of a running command not enabled (R331). An idle engine has no enabled step,
and its turn changes nothing (60_exceptions.md R313). Which agent moves next is the model's choice (log 5), made so that
an enabled engine step eventually happens (R331): the prescribed interleaving in its order, and when none is left an
enabled engine step before the host. -/
def Obligations.HoldingChangesNothing : Prop :=
  (∀ (s : State) (cfg : Cfg) (work : Work), s.seq = .run cfg work →
    (engineEnabled s = false ↔
      (work.atTake = true ∧ s.inFifo = []) ∨ (work.atEmit = true ∧ s.params.outDepth ≤ s.outFifo.length))
    ∧ (engineEnabled s = false → engineTurn s = .next s)
    ∧ (engineEnabled s = true → engineTurn s ≠ .next s))
  ∧ (∀ s : State, s.seq = .idle →
      engineEnabled s = false ∧ (nextTurn s = .engine → step s = .next { s with turns := s.turns.tail }))
  ∧ (∀ s : State,
      (∀ (t : Turn) (rest : List Turn), s.turns = t :: rest → nextTurn s = t)
      ∧ (s.turns = [] → engineEnabled s = true → nextTurn s = .engine)
      ∧ (s.turns = [] → engineEnabled s = false → nextTurn s = .host))

/-- R331: every non-stream command completes in exactly one engine step after it has started; `KSCHED` and `NSEED`,
with an EOF, ERR or reserved token somewhere in the IN FIFO, within as many engine steps as the FIFO has tokens. That
bound is not R331's (R330 leaves the number of steps open): it is the model's choice, from one step for each take
(R271) and the computation and completion in the step of the take (DEDUCED, log 9). -/
def Obligations.CommandsTerminate : Prop :=
  ∀ (s : State) (cfg : Cfg) (work : Work), s.seq = .run cfg work →
    (work.op ∉ [Instr.ksched, .nseed, .senc, .sdec] →
      ∃ t, exec work.op s = .next t ∧ t.seq = .idle ∧ t.done = true)
    ∧ (work.op = .ksched ∨ work.op = .nseed → (∃ tok ∈ s.inFifo, isData tok = false) →
      ∃ k t, k ≤ s.inFifo.length ∧ engineSteps k s = .next t ∧ t.seq = .idle ∧ t.done = true)

/-- R290: an error ends a command and the machine goes on: no state stops the machine. -/
def Obligations.EveryStepAnswersANextState : Prop := ∀ s : State, ∃ t, step s = .next t

/-! ## Registers -/

/-- R81 and R84: the register map both ways. Every register the map lists has the index of R81's table, and that index
names it; an index that names a register is that register's. -/
def Obligations.RegisterMapIsOneToOne : Prop :=
  ∀ p : Params, p.wellFormed = true →
    (∀ r : RegName,
      (match r with
        | .unmapped => False
        | .blk j | .nonce j | .key j | .pwc j | .pwtag j => j < p.nMax
        | _ => True) →
      let idx : BitVec 12 := BitVec.ofNat 12 (
        match r with
        | .id => 0x000
        | .param => 0x001
        | .ctrl => 0x002
        | .status => 0x003
        | .cfg => 0x004
        | .cmd => 0x005
        | .ema => 0x006
        | .kp => 0x007
        | .kq => 0x008
        | .blkcnt => 0x009
        | .incnt => 0x00A
        | .outcnt => 0x00B
        | .sidx => 0x00C
        | .sdata => 0x00D
        | .fifostat => 0x00E
        | .inpush => 0x00F
        | .outpop => 0x010
        | .blk j => 0x100 + j
        | .nonce j => 0x200 + j
        | .key j => 0x300 + j
        | .pwc j => 0x400 + j
        | .pwtag j => 0x500 + j
        | .unmapped => 0xFFF)
      regIndex r = some idx ∧ regOf p idx = r)
    ∧ (∀ idx : BitVec 12, regOf p idx ≠ .unmapped → regIndex (regOf p idx) = some idx)

/-- R84: a read of an unmapped index returns 0, a write to one is ignored, and neither sets `WDROP`. -/
def Obligations.UnmappedIndicesReadZero : Prop :=
  ∀ (s : State) (idx : BitVec 12) (v : Reg),
    ((0x011 ≤ idx.toNat ∧ idx.toNat ≤ 0x0FF) ∨ 0x5FF < idx.toNat
      ∨ (0x100 ≤ idx.toNat ∧ idx.toNat ≤ 0x5FF ∧ s.params.nMax ≤ idx.toNat % 256)) →
    s.readReg (regOf s.params idx) = (0, s) ∧ s.writeReg (regOf s.params idx) v = .next s

/-- R31 and R32: the fields of `ID` and `PARAM`, and that writes to them are ignored. -/
def Obligations.IdAndParamIdentifyTheInstance : Prop :=
  ∀ (s : State) (v : Reg), s.params.wellFormed = true →
    let id := (s.readReg .id).1
    let param := (s.readReg .param).1
    (id.extractLsb' 0 8 = 0x01 ∧ (id.extractLsb' 8 8).toNat = s.params.bits
      ∧ id.getLsbD 16 = (s.params.family == .ddr) ∧ id.getLsbD 17 = s.params.p2req ∧ id.extractLsb' 18 14 = 0
      ∧ (id.extractLsb' 32 16).toNat = s.params.rMax ∧ id.extractLsb' 48 16 = 0)
    ∧ ((param.extractLsb' 0 16).toNat = s.params.nMax ∧ (param.extractLsb' 16 16).toNat = s.params.lMaxBytes
      ∧ (param.extractLsb' 32 16).toNat = s.params.inDepth ∧ (param.extractLsb' 48 16).toNat = s.params.outDepth)
    ∧ s.writeReg .id v = .next s ∧ s.writeReg .param v = .next s

/-- R34: the fields of `STATUS` as it reads, with the error codes of R291, and what a write of `v` clears. -/
def Obligations.StatusFieldsAndWriteOneToClear : Prop :=
  ∀ (s : State) (v : Reg),
    let st := (s.readReg .status).1
    (st.getLsbD 0 = s.busy ∧ st.getLsbD 1 = s.done ∧ st.getLsbD 2 = s.kvalid ∧ st.getLsbD 3 = s.wdrop
      ∧ st.getLsbD 4 = s.inovf ∧ st.extractLsb' 5 3 = 0
      ∧ st.extractLsb' 8 4 = (match s.err with
          | .none => 0 | .cmd => 1 | .param => 2 | .noKey => 3 | .io => 4 | .trunc => 5 | .pwMismatch => 6 | .keyLen => 7
          | .keyFmt => 8)
      ∧ st.extractLsb' 12 4 = 0 ∧ st.extractLsb' 16 8 = s.lastop ∧ st.getLsbD 24 = (s.ie && s.done)
      ∧ st.extractLsb' 25 39 = 0)
    ∧ s.writeReg .status v = .next
        { s with
          done := if v.getLsbD 1 then false else s.done
          wdrop := if v.getLsbD 3 then false else s.wdrop
          inovf := if v.getLsbD 4 then false else s.inovf }

/-- R122 and R36: the value of `CFG` is assembled from its fields by shifts, and a write stores exactly the bits
written, bits [63:36] ignored. -/
def Obligations.CfgValueAssembly : Prop :=
  (∀ c : Cfg,
    c.toBits = (c.rounds.setWidth 64) ||| (c.nwords.setWidth 64 <<< 16)
      ||| ((BitVec.ofBool c.hexkey).setWidth 64 <<< 32) ||| ((BitVec.ofBool c.srot).setWidth 64 <<< 33)
      ||| ((BitVec.ofBool c.pwfull).setWidth 64 <<< 34) ||| ((BitVec.ofBool c.emrot).setWidth 64 <<< 35))
  ∧ (∀ v : Reg, (Cfg.ofBits v).toBits = (v.extractLsb' 0 36).setWidth 64)
  ∧ (∀ c : Cfg, Cfg.ofBits c.toBits = c)

/-- R36 to R39, R42, R45, R55: an accepted write to `CFG`, `EMA`, `KP`, `KQ`, `BLKCNT` or `SIDX` stores the bits the
register uses, and the first four clear `KVALID`; nothing else changes, and the next read returns the value. -/
def Obligations.AcceptedRegisterWrites : Prop :=
  ∀ (s : State) (v : Reg), s.busy = false →
    (∃ t, s.writeReg .cfg v = .next t ∧ t = { s with cfg := Cfg.ofBits v, kvalid := false }
      ∧ (t.readReg .cfg).1 = (v.extractLsb' 0 36).setWidth 64)
    ∧ (∃ t, s.writeReg .ema v = .next t ∧ t = { s with ema := t.ema, kvalid := false }
      ∧ (t.readReg .ema).1.toNat = v.toNat % 2 ^ s.params.bits)
    ∧ (∃ t, s.writeReg .kp v = .next t ∧ t = { s with kp := t.kp, kvalid := false }
      ∧ (t.readReg .kp).1.toNat = v.toNat % 2 ^ s.params.bits)
    ∧ (∃ t, s.writeReg .kq v = .next t ∧ t = { s with kq := t.kq, kvalid := false }
      ∧ (t.readReg .kq).1.toNat = v.toNat % 2 ^ s.params.bits)
    ∧ (∃ t, s.writeReg .blkcnt v = .next t ∧ t = { s with blkcnt := v } ∧ (t.readReg .blkcnt).1 = v)
    ∧ (∃ t, s.writeReg .sidx v = .next t ∧ t = { s with sidx := t.sidx }
      ∧ (t.readReg .sidx).1 = (v.extractLsb' 0 32).setWidth 64)

/-- R51: an accepted write to word `j` of `BLK`, `NONCE` or `PWTAG` stores `v[W-1:0]` there, the next read returns it,
and every other word stays; `KEY` and `PWC` ignore writes. -/
def Obligations.AcceptedBlockWrites : Prop :=
  ∀ (s : State) (v : Reg) (j : Nat), s.busy = false → s.regsWf = true → j < s.params.nMax →
    (∃ t, s.writeReg (.blk j) v = .next t ∧ t = { s with blk := t.blk }
      ∧ (t.readReg (.blk j)).1.toNat = v.toNat % 2 ^ s.params.bits
      ∧ ∀ i, i ≠ j → t.blk.getD i 0 = s.blk.getD i 0)
    ∧ (∃ t, s.writeReg (.nonce j) v = .next t ∧ t = { s with nonce := t.nonce }
      ∧ (t.readReg (.nonce j)).1.toNat = v.toNat % 2 ^ s.params.bits
      ∧ ∀ i, i ≠ j → t.nonce.getD i 0 = s.nonce.getD i 0)
    ∧ (∃ t, s.writeReg (.pwtag j) v = .next t ∧ t = { s with pwtag := t.pwtag }
      ∧ (t.readReg (.pwtag j)).1.toNat = v.toNat % 2 ^ s.params.bits
      ∧ ∀ i, i ≠ j → t.pwtag.getD i 0 = s.pwtag.getD i 0)
    ∧ s.writeReg (.key j) v = .next s ∧ s.writeReg (.pwc j) v = .next s

/-- R278: a host write while a command runs cannot change the command's operands. It is a soft reset, or it leaves all
but IE, the flags and the IN FIFO as they were; `CMD` and the registers of the table's fifth row set `WDROP` and
nothing else; those of its last row ignore the write. -/
def Obligations.WritesWhileBusyKeepOperands : Prop :=
  ∀ (s t : State) (r : RegName) (v : Reg), s.busy = true → s.writeReg r v = .next t →
    (if r = .ctrl ∧ v.getLsbD 1 = true then t = s.resetEngine
     else t = { s with ie := t.ie, done := t.done, wdrop := t.wdrop, inovf := t.inovf, inFifo := t.inFifo })
    ∧ ((match r with
        | .cfg | .ema | .kp | .kq | .blkcnt | .sidx | .blk _ | .nonce _ | .pwtag _ | .cmd => True
        | _ => False) → t = { s with wdrop := true })
    ∧ ((match r with
        | .id | .param | .incnt | .outcnt | .sdata | .fifostat | .outpop | .key _ | .pwc _ | .unmapped => True
        | _ => False) → t = s)

/-- R273 to R277: a `CTRL` write. With SRST it is a reset and nothing else; otherwise IE is stored in either state,
and each flush bit empties its FIFO while idle and sets `WDROP` while busy. -/
def Obligations.CtrlWriteActions : Prop :=
  ∀ (s : State) (v : Reg),
    (v.getLsbD 1 = true → s.writeReg .ctrl v = .next s.resetEngine)
    ∧ (v.getLsbD 1 = false →
        s.writeReg .ctrl v = .next
          { s with
            ie := v.getLsbD 0
            inFifo := if v.getLsbD 2 && !s.busy then [] else s.inFifo
            outFifo := if v.getLsbD 3 && !s.busy then [] else s.outFifo
            wdrop := if (v.getLsbD 2 || v.getLsbD 3) && s.busy then true else s.wdrop })
    ∧ (s.readReg .ctrl).1 = (BitVec.ofBool s.ie).setWidth 64

/-- R48, R49 and R120: an `INPUSH` write appends the token `v[9:0]`, or with the IN FIFO full drops it and sets
`INOVF`, whether or not a command runs; an `OUTPOP` read pops the head byte `b` and returns `0x100 | b`, or on an
empty OUT FIFO returns 0 and changes nothing; reads of `INPUSH` return 0 and writes to `OUTPOP` are ignored. -/
def Obligations.FifoPortsPushAndPop : Prop :=
  ∀ (s : State) (v : Reg),
    s.writeReg .inpush v = .next
      (if s.inFifo.length < s.params.inDepth then
        { s with inFifo := s.inFifo ++ [tokenOfBits (v.extractLsb' 0 10)] }
      else { s with inovf := true })
    ∧ s.readReg .inpush = (0, s)
    ∧ (∀ (b : Byte) (rest : List Byte), s.outFifo = b :: rest →
      s.readReg .outpop = (0x100 ||| b.setWidth 64, { s with outFifo := rest }))
    ∧ (s.outFifo = [] → s.readReg .outpop = (0, s))
    ∧ s.writeReg .outpop v = .next s

/-- R47: the FIFO levels in `FIFOSTAT`; with them R41, R43 and R44: `CMD`, `INCNT` and `OUTCNT` read as they are held,
while a command runs too, and the two counts and `FIFOSTAT` ignore writes. The levels are below 2^16 in the invariant
(R8). -/
def Obligations.FifostatAndCountReads : Prop :=
  ∀ (s : State) (v : Reg), s.inFifo.length < 2 ^ 16 → s.outFifo.length < 2 ^ 16 →
    let fs := (s.readReg .fifostat).1
    ((fs.extractLsb' 0 16).toNat = s.inFifo.length ∧ (fs.extractLsb' 16 16).toNat = s.outFifo.length
      ∧ fs.extractLsb' 32 32 = 0)
    ∧ (s.readReg .fifostat).2 = s ∧ s.writeReg .fifostat v = .next s
    ∧ s.readReg .cmd = (s.cmd, s) ∧ s.readReg .incnt = (s.incnt, s) ∧ s.readReg .outcnt = (s.outcnt, s)
    ∧ s.writeReg .incnt v = .next s ∧ s.writeReg .outcnt v = .next s

/-- R118: the token format. -/
def Obligations.TokenFormat : Prop :=
  (∀ v : BitVec 10,
    (v.extractLsb' 8 2 = 0b00 → tokenOfBits v = .data (v.extractLsb' 0 8))
    ∧ (v.extractLsb' 8 2 = 0b01 → tokenOfBits v = .eof)
    ∧ (v.extractLsb' 8 2 = 0b10 → tokenOfBits v = .err)
    ∧ (v.extractLsb' 8 2 = 0b11 → tokenOfBits v = .reserved))
  ∧ (∀ b : Byte, (tokenBits (.data b)).toNat = b.toNat) ∧ tokenBits .eof = 0x100 ∧ tokenBits .err = 0x200
  ∧ (∀ tok : Token, tokenOfBits (tokenBits tok) = tok)

/-- R46 and the KEY row of R51: what `SDATA` and `KEY[j]` read as, when they read 0, and that they ignore writes. -/
def Obligations.KeyReadsAreGatedByKvalid : Prop :=
  ∀ (s : State) (j : Nat) (v : Reg),
    (s.params.family = .ddr → s.kvalid = true → s.sidx.toNat < s.cfg.rounds.toNat * s.cfg.nwords.toNat + 2 →
      s.readReg .sdata = (s.sched.getD s.sidx.toNat 0, s))
    ∧ (s.params.family = .em ∨ s.kvalid = false ∨ s.cfg.rounds.toNat * s.cfg.nwords.toNat + 2 ≤ s.sidx.toNat →
      s.readReg .sdata = (0, s))
    ∧ s.writeReg .sdata v = .next s
    ∧ (s.params.family = .em → s.kvalid = true → s.readReg (.key j) = (s.key.getD j 0, s))
    ∧ (s.params.family = .ddr ∨ s.kvalid = false → s.readReg (.key j) = (0, s))
    ∧ s.writeReg (.key j) v = .next s

/-- R87: only `OUTPOP` reads have a side effect on the engine; the model counts the free values a read draws (log 4).
While no command runs each register reads as the value it holds: `CFG`, the constants, `BLKCNT`, `SIDX` and the words of
`BLK`, `NONCE`, `PWC` and `PWTAG` (R36 to R39, R42, R45, R51). The other registers read so at any time, and have their
values in `IdAndParamIdentifyTheInstance`, `StatusFieldsAndWriteOneToClear`, `CtrlWriteActions`, `FifoPortsPushAndPop`,
`FifostatAndCountReads`, `KeyReadsAreGatedByKvalid` and `UnmappedIndicesReadZero`. -/
def Obligations.OtherReadsHaveNoSideEffect : Prop :=
  ∀ (s : State) (r : RegName), r ≠ .outpop →
    (s.readReg r).2 = { s with free := (s.readReg r).2.free }
    ∧ (s.busy = false →
        (s.readReg r).2 = s
        ∧ (match r with
            | .cfg => (s.readReg r).1 = s.cfg.toBits
            | .ema => (s.readReg r).1 = s.ema
            | .kp => (s.readReg r).1 = s.kp
            | .kq => (s.readReg r).1 = s.kq
            | .blkcnt => (s.readReg r).1 = s.blkcnt
            | .sidx => (s.readReg r).1 = s.sidx.setWidth 64
            | .blk j => (s.readReg r).1 = s.blk.getD j 0
            | .nonce j => (s.readReg r).1 = s.nonce.getD j 0
            | .pwc j => (s.readReg r).1 = s.pwc.getD j 0
            | .pwtag j => (s.readReg r).1 = s.pwtag.getD j 0
            | .id | .param | .ctrl | .status | .cmd | .incnt | .outcnt | .sdata | .fifostat | .inpush | .outpop | .key _
            | .unmapped => True))

/-- R279: while a command runs, the words it does not write, and words `[N ..]` of those it does, read as they are,
and so do `CFG`, the constants, `SIDX`, `CMD` and the counts; during `KSCHED`, in the invariant, `KEY[j]` and `SDATA`
read 0. The other reads R279 lists are in `IdAndParamIdentifyTheInstance`, `StatusFieldsAndWriteOneToClear`,
`FifoPortsPushAndPop` and `FifostatAndCountReads`, which ask nothing of the sequencer. -/
def Obligations.StableReadsWhileBusy : Prop :=
  ∀ (s : State) (cfg : Cfg) (work : Work) (j : Nat), s.seq = .run cfg work →
    (work.op ∉ [Instr.mix, .unmix, .benc, .bdec, .menc, .mdec] ∨ cfg.n ≤ j →
      s.readReg (.blk j) = (s.blk.getD j 0, s))
    ∧ (work.op ∉ [Instr.nseed, .menc, .mdec, .ninc, .senc, .sdec] ∨ cfg.n ≤ j →
      s.readReg (.nonce j) = (s.nonce.getD j 0, s))
    ∧ (work.op ∉ [Instr.pwchk, .pwver] ∨ cfg.n ≤ j → s.readReg (.pwc j) = (s.pwc.getD j 0, s))
    ∧ (work.op ∉ [Instr.menc, .mdec, .senc, .sdec] → s.readReg .blkcnt = (s.blkcnt, s))
    ∧ s.readReg (.pwtag j) = (s.pwtag.getD j 0, s)
    ∧ s.readReg .incnt = (s.incnt, s) ∧ s.readReg .outcnt = (s.outcnt, s)
    ∧ s.readReg .cfg = (s.cfg.toBits, s) ∧ s.readReg .ema = (s.ema, s) ∧ s.readReg .kp = (s.kp, s)
    ∧ s.readReg .kq = (s.kq, s) ∧ s.readReg .sidx = (s.sidx.setWidth 64, s) ∧ s.readReg .cmd = (s.cmd, s)
    ∧ (work.op = .ksched → s.Inv → s.readReg (.key j) = (0, s) ∧ s.readReg .sdata = (0, s))

/-! ## Reset and the whole machine -/

/-- R321 with R59: what a reset leaves, from the reset input and from SRST alike (R320), a running command abandoned
(R322). Nothing is said of `KEY`, `SCHED` and `LRAM`, whose contents the rule leaves open. R59 marks the constants of
`KP` and `KQ` as general knowledge (93_implementation_defined.md GK1, log 20). -/
def Obligations.ResetValues : Prop :=
  ∀ (s : State) (v : Reg),
    ∃ t, takeTurn .resetInput s = .next t ∧ (v.getLsbD 1 = true → s.writeReg .ctrl v = .next t)
      ∧ t.params = s.params ∧ t.ie = false ∧ statusBits t = 0 ∧ t.irq = false ∧ t.cfg.toBits = 0 ∧ t.cmd = 0
      ∧ t.ema = (match s.params.width with
          | .w8 => 0xAA | .w16 => 0xAAAA | .w32 => 0xAAAAAAAA | .w64 => 0xAAAAAAAAAAAAAAAA)
      ∧ t.kp = (match s.params.width with
          | .w8 => 0xB7 | .w16 => 0xB7E1 | .w32 => 0xB7E15163 | .w64 => 0xB7E151628AED2A6B)
      ∧ t.kq = (match s.params.width with
          | .w8 => 0x9F | .w16 => 0x9E37 | .w32 => 0x9E3779B9 | .w64 => 0x9E3779B97F4A7C15)
      ∧ t.blkcnt = 0 ∧ t.incnt = 0 ∧ t.outcnt = 0 ∧ t.sidx = 0
      ∧ t.blk = List.replicate s.params.nMax 0 ∧ t.nonce = List.replicate s.params.nMax 0
      ∧ t.pwc = List.replicate s.params.nMax 0 ∧ t.pwtag = List.replicate s.params.nMax 0
      ∧ t.kvalid = false ∧ t.inFifo = [] ∧ t.outFifo = [] ∧ t.seq = .idle

/-- R128 and R130: one access of `POLL` and of `DRAIN` by the host. `DRAIN` collects bits [7:0] of the reads that return a
byte, in order, discards the reads that return 0, and keeps the byte string after the last of its `n` bytes. Three
clauses are the model's choice (DESIGN CHOICE, log 14): that each access is one step, that every read of `POLL` and the
byte string of `DRAIN` are kept in `results`, newest first, and that `DRAIN 0` takes one step and keeps the empty string
or what was collected. -/
def Obligations.PollAndDrainRepeatTheirRead : Prop :=
  (∀ (s : State) (idx : BitVec 12) (mask value : Reg) (rest : List HostAct),
    nextTurn s = .host → s.host = .poll idx mask value :: rest →
      let x := ({ s with turns := s.turns.tail } : State).readReg (regOf s.params idx)
      step s = .next
        { x.2 with
          results := .word idx x.1 :: s.results
          host := if x.1 &&& mask = value then rest else s.host })
  ∧ (∀ (s : State) (got : List Byte) (rest : List HostAct), nextTurn s = .host →
      (s.host = .drain 0 got :: rest →
        step s = .next { s with turns := s.turns.tail, host := rest, results := .bytes got :: s.results })
      ∧ (∀ n : Nat, s.host = .drain (n + 1) got :: rest →
        (∀ (b : Byte) (out : List Byte), s.outFifo = b :: out →
          step s = .next
            { s with
              turns := s.turns.tail, outFifo := out
              host := if n = 0 then rest else .drain n (got ++ [b]) :: rest
              results := if n = 0 then .bytes (got ++ [b]) :: s.results else s.results })
        ∧ (s.outFifo = [] → step s = .next { s with turns := s.turns.tail })))

/-- R55: which events change `KVALID`. Only the step in which a `KSCHED` takes EOF sets it; only a reset, the
acceptance of a `KSCHED`, and an accepted write to `CFG`, `EMA`, `KP` or `KQ` clear it. -/
def Obligations.KvalidChangesOnlyByItsEvents : Prop :=
  ∀ s t : State, step s = .next t →
    (s.kvalid = false → t.kvalid = true →
      nextTurn s = .engine ∧ ∃ cfg work rest, s.seq = .run cfg work ∧ work.op = .ksched ∧ s.inFifo = .eof :: rest
        ∧ t.seq = .idle ∧ t.done = true ∧ t.err = .none)
    ∧ (s.kvalid = true → t.kvalid = false →
      nextTurn s = .resetInput
      ∨ (nextTurn s = .host ∧ ∃ idx v rest, s.host = .wr idx v :: rest
          ∧ ((regOf s.params idx = .ctrl ∧ v.getLsbD 1 = true)
            ∨ (s.busy = false ∧ regOf s.params idx = .cmd ∧ v = 1)
            ∨ (s.busy = false ∧ regOf s.params idx ∈ [RegName.cfg, .ema, .kp, .kq]))))

/-- The machine after the reset of any instance the spec allows is in the invariant, `State.reset` among them. Which
instance `State.reset` is, and the contents of the key RAMs, are the model's choices (log 1 and log 2). -/
def Obligations.InvariantHoldsAtReset : Prop :=
  State.reset.Inv ∧ ∀ p : Params, p.wellFormed = true → (State.resetOf p).Inv

/-- Every step of every agent keeps the invariant: register sizes and widths (R51, R58), FIFO capacities (R53, R54),
`LASTOP = CMD[7:0]` (R34), key material only for a valid `CFG` (R164), and for a running command its snapshot equal to
the live `CFG` (R272), its checks passed (R271), `DONE = 0` and `ERR = 0`, and fill counts below the buffer sizes
(R57). -/
def Obligations.EveryStepKeepsTheInvariant : Prop :=
  ∀ s t : State, s.Inv → step s = .next t → t.Inv

/-- The build parameters never change (R2, R8), and a lost access stays on record until the host clears the flag or a
reset does (R34: `WDROP` and `INOVF` are sticky). -/
def Obligations.ParametersAndStickyFlags : Prop :=
  ∀ s t : State, step s = .next t →
    t.params = s.params
    ∧ (s.wdrop = true → t.wdrop = false →
        nextTurn s = .resetInput ∨ (nextTurn s = .host ∧ ∃ idx v rest, s.host = .wr idx v :: rest
          ∧ ((regOf s.params idx = .status ∧ v.getLsbD 3 = true) ∨ (regOf s.params idx = .ctrl ∧ v.getLsbD 1 = true))))
    ∧ (s.inovf = true → t.inovf = false →
        nextTurn s = .resetInput ∨ (nextTurn s = .host ∧ ∃ idx v rest, s.host = .wr idx v :: rest
          ∧ ((regOf s.params idx = .status ∧ v.getLsbD 4 = true) ∨ (regOf s.params idx = .ctrl ∧ v.getLsbD 1 = true))))
end

