-- ==== Sys2Proof/Laws/State.lean ====
section
/-! SUPPORT. One lemma per field per update of the state, each true by unfolding the update once: no later proof unfolds a
record update. -/

namespace Sys2Proof.Machine

/-! ### After `complete(code)` (60_exceptions.md R296) -/

@[simp] theorem State.complete_params (code : ErrCode) (s : State) : (s.complete code).params = s.params := rfl
@[simp] theorem State.complete_ie (code : ErrCode) (s : State) : (s.complete code).ie = s.ie := rfl
@[simp] theorem State.complete_done (code : ErrCode) (s : State) : (s.complete code).done = true := rfl
@[simp] theorem State.complete_kvalid (code : ErrCode) (s : State) : (s.complete code).kvalid = s.kvalid := rfl
@[simp] theorem State.complete_wdrop (code : ErrCode) (s : State) : (s.complete code).wdrop = s.wdrop := rfl
@[simp] theorem State.complete_inovf (code : ErrCode) (s : State) : (s.complete code).inovf = s.inovf := rfl
@[simp] theorem State.complete_err (code : ErrCode) (s : State) : (s.complete code).err = code := rfl
@[simp] theorem State.complete_lastop (code : ErrCode) (s : State) : (s.complete code).lastop = s.lastop := rfl
@[simp] theorem State.complete_cfg (code : ErrCode) (s : State) : (s.complete code).cfg = s.cfg := rfl
@[simp] theorem State.complete_cmd (code : ErrCode) (s : State) : (s.complete code).cmd = s.cmd := rfl
@[simp] theorem State.complete_ema (code : ErrCode) (s : State) : (s.complete code).ema = s.ema := rfl
@[simp] theorem State.complete_kp (code : ErrCode) (s : State) : (s.complete code).kp = s.kp := rfl
@[simp] theorem State.complete_kq (code : ErrCode) (s : State) : (s.complete code).kq = s.kq := rfl
@[simp] theorem State.complete_blkcnt (code : ErrCode) (s : State) : (s.complete code).blkcnt = s.blkcnt := rfl
@[simp] theorem State.complete_incnt (code : ErrCode) (s : State) : (s.complete code).incnt = s.incnt := rfl
@[simp] theorem State.complete_outcnt (code : ErrCode) (s : State) : (s.complete code).outcnt = s.outcnt := rfl
@[simp] theorem State.complete_sidx (code : ErrCode) (s : State) : (s.complete code).sidx = s.sidx := rfl
@[simp] theorem State.complete_blk (code : ErrCode) (s : State) : (s.complete code).blk = s.blk := rfl
@[simp] theorem State.complete_nonce (code : ErrCode) (s : State) : (s.complete code).nonce = s.nonce := rfl
@[simp] theorem State.complete_key (code : ErrCode) (s : State) : (s.complete code).key = s.key := rfl
@[simp] theorem State.complete_pwc (code : ErrCode) (s : State) : (s.complete code).pwc = s.pwc := rfl
@[simp] theorem State.complete_pwtag (code : ErrCode) (s : State) : (s.complete code).pwtag = s.pwtag := rfl
@[simp] theorem State.complete_sched (code : ErrCode) (s : State) : (s.complete code).sched = s.sched := rfl
@[simp] theorem State.complete_lram (code : ErrCode) (s : State) : (s.complete code).lram = s.lram := rfl
@[simp] theorem State.complete_inFifo (code : ErrCode) (s : State) : (s.complete code).inFifo = s.inFifo := rfl
@[simp] theorem State.complete_outFifo (code : ErrCode) (s : State) : (s.complete code).outFifo = s.outFifo := rfl
@[simp] theorem State.complete_seq (code : ErrCode) (s : State) : (s.complete code).seq = .idle := rfl
@[simp] theorem State.complete_host (code : ErrCode) (s : State) : (s.complete code).host = s.host := rfl
@[simp] theorem State.complete_turns (code : ErrCode) (s : State) : (s.complete code).turns = s.turns := rfl
@[simp] theorem State.complete_results (code : ErrCode) (s : State) : (s.complete code).results = s.results := rfl
@[simp] theorem State.complete_free (code : ErrCode) (s : State) : (s.complete code).free = s.free := rfl

/-! ### After the acceptance effects (44_control.md R271) -/

@[simp] theorem State.accept_params (v : Reg) (s : State) : (s.accept v).params = s.params := rfl
@[simp] theorem State.accept_ie (v : Reg) (s : State) : (s.accept v).ie = s.ie := rfl
@[simp] theorem State.accept_done (v : Reg) (s : State) : (s.accept v).done = false := rfl
@[simp] theorem State.accept_kvalid (v : Reg) (s : State) : (s.accept v).kvalid = s.kvalid := rfl
@[simp] theorem State.accept_wdrop (v : Reg) (s : State) : (s.accept v).wdrop = s.wdrop := rfl
@[simp] theorem State.accept_inovf (v : Reg) (s : State) : (s.accept v).inovf = s.inovf := rfl
@[simp] theorem State.accept_err (v : Reg) (s : State) : (s.accept v).err = .none := rfl
@[simp] theorem State.accept_lastop (v : Reg) (s : State) : (s.accept v).lastop = cmdOp v := rfl
@[simp] theorem State.accept_cfg (v : Reg) (s : State) : (s.accept v).cfg = s.cfg := rfl
@[simp] theorem State.accept_cmd (v : Reg) (s : State) : (s.accept v).cmd = v := rfl
@[simp] theorem State.accept_ema (v : Reg) (s : State) : (s.accept v).ema = s.ema := rfl
@[simp] theorem State.accept_kp (v : Reg) (s : State) : (s.accept v).kp = s.kp := rfl
@[simp] theorem State.accept_kq (v : Reg) (s : State) : (s.accept v).kq = s.kq := rfl
@[simp] theorem State.accept_blkcnt (v : Reg) (s : State) : (s.accept v).blkcnt = s.blkcnt := rfl
@[simp] theorem State.accept_incnt (v : Reg) (s : State) : (s.accept v).incnt = 0 := rfl
@[simp] theorem State.accept_outcnt (v : Reg) (s : State) : (s.accept v).outcnt = 0 := rfl
@[simp] theorem State.accept_sidx (v : Reg) (s : State) : (s.accept v).sidx = s.sidx := rfl
@[simp] theorem State.accept_blk (v : Reg) (s : State) : (s.accept v).blk = s.blk := rfl
@[simp] theorem State.accept_nonce (v : Reg) (s : State) : (s.accept v).nonce = s.nonce := rfl
@[simp] theorem State.accept_key (v : Reg) (s : State) : (s.accept v).key = s.key := rfl
@[simp] theorem State.accept_pwc (v : Reg) (s : State) : (s.accept v).pwc = s.pwc := rfl
@[simp] theorem State.accept_pwtag (v : Reg) (s : State) : (s.accept v).pwtag = s.pwtag := rfl
@[simp] theorem State.accept_sched (v : Reg) (s : State) : (s.accept v).sched = s.sched := rfl
@[simp] theorem State.accept_lram (v : Reg) (s : State) : (s.accept v).lram = s.lram := rfl
@[simp] theorem State.accept_inFifo (v : Reg) (s : State) : (s.accept v).inFifo = s.inFifo := rfl
@[simp] theorem State.accept_outFifo (v : Reg) (s : State) : (s.accept v).outFifo = s.outFifo := rfl
@[simp] theorem State.accept_seq (v : Reg) (s : State) : (s.accept v).seq = s.seq := rfl
@[simp] theorem State.accept_host (v : Reg) (s : State) : (s.accept v).host = s.host := rfl
@[simp] theorem State.accept_turns (v : Reg) (s : State) : (s.accept v).turns = s.turns := rfl
@[simp] theorem State.accept_results (v : Reg) (s : State) : (s.accept v).results = s.results := rfl
@[simp] theorem State.accept_free (v : Reg) (s : State) : (s.accept v).free = s.free := rfl

/-! ### After a dropped write (R278) -/

@[simp] theorem State.dropWrite_params (s : State) : (s.dropWrite).params = s.params := rfl
@[simp] theorem State.dropWrite_ie (s : State) : (s.dropWrite).ie = s.ie := rfl
@[simp] theorem State.dropWrite_done (s : State) : (s.dropWrite).done = s.done := rfl
@[simp] theorem State.dropWrite_kvalid (s : State) : (s.dropWrite).kvalid = s.kvalid := rfl
@[simp] theorem State.dropWrite_wdrop (s : State) : (s.dropWrite).wdrop = true := rfl
@[simp] theorem State.dropWrite_inovf (s : State) : (s.dropWrite).inovf = s.inovf := rfl
@[simp] theorem State.dropWrite_err (s : State) : (s.dropWrite).err = s.err := rfl
@[simp] theorem State.dropWrite_lastop (s : State) : (s.dropWrite).lastop = s.lastop := rfl
@[simp] theorem State.dropWrite_cfg (s : State) : (s.dropWrite).cfg = s.cfg := rfl
@[simp] theorem State.dropWrite_cmd (s : State) : (s.dropWrite).cmd = s.cmd := rfl
@[simp] theorem State.dropWrite_ema (s : State) : (s.dropWrite).ema = s.ema := rfl
@[simp] theorem State.dropWrite_kp (s : State) : (s.dropWrite).kp = s.kp := rfl
@[simp] theorem State.dropWrite_kq (s : State) : (s.dropWrite).kq = s.kq := rfl
@[simp] theorem State.dropWrite_blkcnt (s : State) : (s.dropWrite).blkcnt = s.blkcnt := rfl
@[simp] theorem State.dropWrite_incnt (s : State) : (s.dropWrite).incnt = s.incnt := rfl
@[simp] theorem State.dropWrite_outcnt (s : State) : (s.dropWrite).outcnt = s.outcnt := rfl
@[simp] theorem State.dropWrite_sidx (s : State) : (s.dropWrite).sidx = s.sidx := rfl
@[simp] theorem State.dropWrite_blk (s : State) : (s.dropWrite).blk = s.blk := rfl
@[simp] theorem State.dropWrite_nonce (s : State) : (s.dropWrite).nonce = s.nonce := rfl
@[simp] theorem State.dropWrite_key (s : State) : (s.dropWrite).key = s.key := rfl
@[simp] theorem State.dropWrite_pwc (s : State) : (s.dropWrite).pwc = s.pwc := rfl
@[simp] theorem State.dropWrite_pwtag (s : State) : (s.dropWrite).pwtag = s.pwtag := rfl
@[simp] theorem State.dropWrite_sched (s : State) : (s.dropWrite).sched = s.sched := rfl
@[simp] theorem State.dropWrite_lram (s : State) : (s.dropWrite).lram = s.lram := rfl
@[simp] theorem State.dropWrite_inFifo (s : State) : (s.dropWrite).inFifo = s.inFifo := rfl
@[simp] theorem State.dropWrite_outFifo (s : State) : (s.dropWrite).outFifo = s.outFifo := rfl
@[simp] theorem State.dropWrite_seq (s : State) : (s.dropWrite).seq = s.seq := rfl
@[simp] theorem State.dropWrite_host (s : State) : (s.dropWrite).host = s.host := rfl
@[simp] theorem State.dropWrite_turns (s : State) : (s.dropWrite).turns = s.turns := rfl
@[simp] theorem State.dropWrite_results (s : State) : (s.dropWrite).results = s.results := rfl
@[simp] theorem State.dropWrite_free (s : State) : (s.dropWrite).free = s.free := rfl

/-! ### After the key invalidated (R55) -/

@[simp] theorem State.dropKey_params (s : State) : (s.dropKey).params = s.params := rfl
@[simp] theorem State.dropKey_ie (s : State) : (s.dropKey).ie = s.ie := rfl
@[simp] theorem State.dropKey_done (s : State) : (s.dropKey).done = s.done := rfl
@[simp] theorem State.dropKey_kvalid (s : State) : (s.dropKey).kvalid = false := rfl
@[simp] theorem State.dropKey_wdrop (s : State) : (s.dropKey).wdrop = s.wdrop := rfl
@[simp] theorem State.dropKey_inovf (s : State) : (s.dropKey).inovf = s.inovf := rfl
@[simp] theorem State.dropKey_err (s : State) : (s.dropKey).err = s.err := rfl
@[simp] theorem State.dropKey_lastop (s : State) : (s.dropKey).lastop = s.lastop := rfl
@[simp] theorem State.dropKey_cfg (s : State) : (s.dropKey).cfg = s.cfg := rfl
@[simp] theorem State.dropKey_cmd (s : State) : (s.dropKey).cmd = s.cmd := rfl
@[simp] theorem State.dropKey_ema (s : State) : (s.dropKey).ema = s.ema := rfl
@[simp] theorem State.dropKey_kp (s : State) : (s.dropKey).kp = s.kp := rfl
@[simp] theorem State.dropKey_kq (s : State) : (s.dropKey).kq = s.kq := rfl
@[simp] theorem State.dropKey_blkcnt (s : State) : (s.dropKey).blkcnt = s.blkcnt := rfl
@[simp] theorem State.dropKey_incnt (s : State) : (s.dropKey).incnt = s.incnt := rfl
@[simp] theorem State.dropKey_outcnt (s : State) : (s.dropKey).outcnt = s.outcnt := rfl
@[simp] theorem State.dropKey_sidx (s : State) : (s.dropKey).sidx = s.sidx := rfl
@[simp] theorem State.dropKey_blk (s : State) : (s.dropKey).blk = s.blk := rfl
@[simp] theorem State.dropKey_nonce (s : State) : (s.dropKey).nonce = s.nonce := rfl
@[simp] theorem State.dropKey_key (s : State) : (s.dropKey).key = s.key := rfl
@[simp] theorem State.dropKey_pwc (s : State) : (s.dropKey).pwc = s.pwc := rfl
@[simp] theorem State.dropKey_pwtag (s : State) : (s.dropKey).pwtag = s.pwtag := rfl
@[simp] theorem State.dropKey_sched (s : State) : (s.dropKey).sched = s.sched := rfl
@[simp] theorem State.dropKey_lram (s : State) : (s.dropKey).lram = s.lram := rfl
@[simp] theorem State.dropKey_inFifo (s : State) : (s.dropKey).inFifo = s.inFifo := rfl
@[simp] theorem State.dropKey_outFifo (s : State) : (s.dropKey).outFifo = s.outFifo := rfl
@[simp] theorem State.dropKey_seq (s : State) : (s.dropKey).seq = s.seq := rfl
@[simp] theorem State.dropKey_host (s : State) : (s.dropKey).host = s.host := rfl
@[simp] theorem State.dropKey_turns (s : State) : (s.dropKey).turns = s.turns := rfl
@[simp] theorem State.dropKey_results (s : State) : (s.dropKey).results = s.results := rfl
@[simp] theorem State.dropKey_free (s : State) : (s.dropKey).free = s.free := rfl

/-! ### After the running command going on (R282) -/

@[simp] theorem State.continueWith_params (c : Cfg) (work : Work) (s : State) : (s.continueWith c work).params = s.params := rfl
@[simp] theorem State.continueWith_ie (c : Cfg) (work : Work) (s : State) : (s.continueWith c work).ie = s.ie := rfl
@[simp] theorem State.continueWith_done (c : Cfg) (work : Work) (s : State) : (s.continueWith c work).done = s.done := rfl
@[simp] theorem State.continueWith_kvalid (c : Cfg) (work : Work) (s : State) : (s.continueWith c work).kvalid = s.kvalid := rfl
@[simp] theorem State.continueWith_wdrop (c : Cfg) (work : Work) (s : State) : (s.continueWith c work).wdrop = s.wdrop := rfl
@[simp] theorem State.continueWith_inovf (c : Cfg) (work : Work) (s : State) : (s.continueWith c work).inovf = s.inovf := rfl
@[simp] theorem State.continueWith_err (c : Cfg) (work : Work) (s : State) : (s.continueWith c work).err = s.err := rfl
@[simp] theorem State.continueWith_lastop (c : Cfg) (work : Work) (s : State) : (s.continueWith c work).lastop = s.lastop := rfl
@[simp] theorem State.continueWith_cfg (c : Cfg) (work : Work) (s : State) : (s.continueWith c work).cfg = s.cfg := rfl
@[simp] theorem State.continueWith_cmd (c : Cfg) (work : Work) (s : State) : (s.continueWith c work).cmd = s.cmd := rfl
@[simp] theorem State.continueWith_ema (c : Cfg) (work : Work) (s : State) : (s.continueWith c work).ema = s.ema := rfl
@[simp] theorem State.continueWith_kp (c : Cfg) (work : Work) (s : State) : (s.continueWith c work).kp = s.kp := rfl
@[simp] theorem State.continueWith_kq (c : Cfg) (work : Work) (s : State) : (s.continueWith c work).kq = s.kq := rfl
@[simp] theorem State.continueWith_blkcnt (c : Cfg) (work : Work) (s : State) : (s.continueWith c work).blkcnt = s.blkcnt := rfl
@[simp] theorem State.continueWith_incnt (c : Cfg) (work : Work) (s : State) : (s.continueWith c work).incnt = s.incnt := rfl
@[simp] theorem State.continueWith_outcnt (c : Cfg) (work : Work) (s : State) : (s.continueWith c work).outcnt = s.outcnt := rfl
@[simp] theorem State.continueWith_sidx (c : Cfg) (work : Work) (s : State) : (s.continueWith c work).sidx = s.sidx := rfl
@[simp] theorem State.continueWith_blk (c : Cfg) (work : Work) (s : State) : (s.continueWith c work).blk = s.blk := rfl
@[simp] theorem State.continueWith_nonce (c : Cfg) (work : Work) (s : State) : (s.continueWith c work).nonce = s.nonce := rfl
@[simp] theorem State.continueWith_key (c : Cfg) (work : Work) (s : State) : (s.continueWith c work).key = s.key := rfl
@[simp] theorem State.continueWith_pwc (c : Cfg) (work : Work) (s : State) : (s.continueWith c work).pwc = s.pwc := rfl
@[simp] theorem State.continueWith_pwtag (c : Cfg) (work : Work) (s : State) : (s.continueWith c work).pwtag = s.pwtag := rfl
@[simp] theorem State.continueWith_sched (c : Cfg) (work : Work) (s : State) : (s.continueWith c work).sched = s.sched := rfl
@[simp] theorem State.continueWith_lram (c : Cfg) (work : Work) (s : State) : (s.continueWith c work).lram = s.lram := rfl
@[simp] theorem State.continueWith_inFifo (c : Cfg) (work : Work) (s : State) : (s.continueWith c work).inFifo = s.inFifo := rfl
@[simp] theorem State.continueWith_outFifo (c : Cfg) (work : Work) (s : State) : (s.continueWith c work).outFifo = s.outFifo := rfl
@[simp] theorem State.continueWith_seq (c : Cfg) (work : Work) (s : State) : (s.continueWith c work).seq = .run c work := rfl
@[simp] theorem State.continueWith_host (c : Cfg) (work : Work) (s : State) : (s.continueWith c work).host = s.host := rfl
@[simp] theorem State.continueWith_turns (c : Cfg) (work : Work) (s : State) : (s.continueWith c work).turns = s.turns := rfl
@[simp] theorem State.continueWith_results (c : Cfg) (work : Work) (s : State) : (s.continueWith c work).results = s.results := rfl
@[simp] theorem State.continueWith_free (c : Cfg) (work : Work) (s : State) : (s.continueWith c work).free = s.free := rfl

/-! ### After a Block stored to `BLK` -/

@[simp] theorem State.setBlk_params {w : Nat} (b : Block w) (s : State) : (s.setBlk b).params = s.params := rfl
@[simp] theorem State.setBlk_ie {w : Nat} (b : Block w) (s : State) : (s.setBlk b).ie = s.ie := rfl
@[simp] theorem State.setBlk_done {w : Nat} (b : Block w) (s : State) : (s.setBlk b).done = s.done := rfl
@[simp] theorem State.setBlk_kvalid {w : Nat} (b : Block w) (s : State) : (s.setBlk b).kvalid = s.kvalid := rfl
@[simp] theorem State.setBlk_wdrop {w : Nat} (b : Block w) (s : State) : (s.setBlk b).wdrop = s.wdrop := rfl
@[simp] theorem State.setBlk_inovf {w : Nat} (b : Block w) (s : State) : (s.setBlk b).inovf = s.inovf := rfl
@[simp] theorem State.setBlk_err {w : Nat} (b : Block w) (s : State) : (s.setBlk b).err = s.err := rfl
@[simp] theorem State.setBlk_lastop {w : Nat} (b : Block w) (s : State) : (s.setBlk b).lastop = s.lastop := rfl
@[simp] theorem State.setBlk_cfg {w : Nat} (b : Block w) (s : State) : (s.setBlk b).cfg = s.cfg := rfl
@[simp] theorem State.setBlk_cmd {w : Nat} (b : Block w) (s : State) : (s.setBlk b).cmd = s.cmd := rfl
@[simp] theorem State.setBlk_ema {w : Nat} (b : Block w) (s : State) : (s.setBlk b).ema = s.ema := rfl
@[simp] theorem State.setBlk_kp {w : Nat} (b : Block w) (s : State) : (s.setBlk b).kp = s.kp := rfl
@[simp] theorem State.setBlk_kq {w : Nat} (b : Block w) (s : State) : (s.setBlk b).kq = s.kq := rfl
@[simp] theorem State.setBlk_blkcnt {w : Nat} (b : Block w) (s : State) : (s.setBlk b).blkcnt = s.blkcnt := rfl
@[simp] theorem State.setBlk_incnt {w : Nat} (b : Block w) (s : State) : (s.setBlk b).incnt = s.incnt := rfl
@[simp] theorem State.setBlk_outcnt {w : Nat} (b : Block w) (s : State) : (s.setBlk b).outcnt = s.outcnt := rfl
@[simp] theorem State.setBlk_sidx {w : Nat} (b : Block w) (s : State) : (s.setBlk b).sidx = s.sidx := rfl
@[simp] theorem State.setBlk_blk {w : Nat} (b : Block w) (s : State) : (s.setBlk b).blk = storeBlock b s.blk := rfl
@[simp] theorem State.setBlk_nonce {w : Nat} (b : Block w) (s : State) : (s.setBlk b).nonce = s.nonce := rfl
@[simp] theorem State.setBlk_key {w : Nat} (b : Block w) (s : State) : (s.setBlk b).key = s.key := rfl
@[simp] theorem State.setBlk_pwc {w : Nat} (b : Block w) (s : State) : (s.setBlk b).pwc = s.pwc := rfl
@[simp] theorem State.setBlk_pwtag {w : Nat} (b : Block w) (s : State) : (s.setBlk b).pwtag = s.pwtag := rfl
@[simp] theorem State.setBlk_sched {w : Nat} (b : Block w) (s : State) : (s.setBlk b).sched = s.sched := rfl
@[simp] theorem State.setBlk_lram {w : Nat} (b : Block w) (s : State) : (s.setBlk b).lram = s.lram := rfl
@[simp] theorem State.setBlk_inFifo {w : Nat} (b : Block w) (s : State) : (s.setBlk b).inFifo = s.inFifo := rfl
@[simp] theorem State.setBlk_outFifo {w : Nat} (b : Block w) (s : State) : (s.setBlk b).outFifo = s.outFifo := rfl
@[simp] theorem State.setBlk_seq {w : Nat} (b : Block w) (s : State) : (s.setBlk b).seq = s.seq := rfl
@[simp] theorem State.setBlk_host {w : Nat} (b : Block w) (s : State) : (s.setBlk b).host = s.host := rfl
@[simp] theorem State.setBlk_turns {w : Nat} (b : Block w) (s : State) : (s.setBlk b).turns = s.turns := rfl
@[simp] theorem State.setBlk_results {w : Nat} (b : Block w) (s : State) : (s.setBlk b).results = s.results := rfl
@[simp] theorem State.setBlk_free {w : Nat} (b : Block w) (s : State) : (s.setBlk b).free = s.free := rfl

/-! ### After a Block stored to `NONCE` -/

@[simp] theorem State.setNonce_params {w : Nat} (b : Block w) (s : State) : (s.setNonce b).params = s.params := rfl
@[simp] theorem State.setNonce_ie {w : Nat} (b : Block w) (s : State) : (s.setNonce b).ie = s.ie := rfl
@[simp] theorem State.setNonce_done {w : Nat} (b : Block w) (s : State) : (s.setNonce b).done = s.done := rfl
@[simp] theorem State.setNonce_kvalid {w : Nat} (b : Block w) (s : State) : (s.setNonce b).kvalid = s.kvalid := rfl
@[simp] theorem State.setNonce_wdrop {w : Nat} (b : Block w) (s : State) : (s.setNonce b).wdrop = s.wdrop := rfl
@[simp] theorem State.setNonce_inovf {w : Nat} (b : Block w) (s : State) : (s.setNonce b).inovf = s.inovf := rfl
@[simp] theorem State.setNonce_err {w : Nat} (b : Block w) (s : State) : (s.setNonce b).err = s.err := rfl
@[simp] theorem State.setNonce_lastop {w : Nat} (b : Block w) (s : State) : (s.setNonce b).lastop = s.lastop := rfl
@[simp] theorem State.setNonce_cfg {w : Nat} (b : Block w) (s : State) : (s.setNonce b).cfg = s.cfg := rfl
@[simp] theorem State.setNonce_cmd {w : Nat} (b : Block w) (s : State) : (s.setNonce b).cmd = s.cmd := rfl
@[simp] theorem State.setNonce_ema {w : Nat} (b : Block w) (s : State) : (s.setNonce b).ema = s.ema := rfl
@[simp] theorem State.setNonce_kp {w : Nat} (b : Block w) (s : State) : (s.setNonce b).kp = s.kp := rfl
@[simp] theorem State.setNonce_kq {w : Nat} (b : Block w) (s : State) : (s.setNonce b).kq = s.kq := rfl
@[simp] theorem State.setNonce_blkcnt {w : Nat} (b : Block w) (s : State) : (s.setNonce b).blkcnt = s.blkcnt := rfl
@[simp] theorem State.setNonce_incnt {w : Nat} (b : Block w) (s : State) : (s.setNonce b).incnt = s.incnt := rfl
@[simp] theorem State.setNonce_outcnt {w : Nat} (b : Block w) (s : State) : (s.setNonce b).outcnt = s.outcnt := rfl
@[simp] theorem State.setNonce_sidx {w : Nat} (b : Block w) (s : State) : (s.setNonce b).sidx = s.sidx := rfl
@[simp] theorem State.setNonce_blk {w : Nat} (b : Block w) (s : State) : (s.setNonce b).blk = s.blk := rfl
@[simp] theorem State.setNonce_nonce {w : Nat} (b : Block w) (s : State) : (s.setNonce b).nonce = storeBlock b s.nonce := rfl
@[simp] theorem State.setNonce_key {w : Nat} (b : Block w) (s : State) : (s.setNonce b).key = s.key := rfl
@[simp] theorem State.setNonce_pwc {w : Nat} (b : Block w) (s : State) : (s.setNonce b).pwc = s.pwc := rfl
@[simp] theorem State.setNonce_pwtag {w : Nat} (b : Block w) (s : State) : (s.setNonce b).pwtag = s.pwtag := rfl
@[simp] theorem State.setNonce_sched {w : Nat} (b : Block w) (s : State) : (s.setNonce b).sched = s.sched := rfl
@[simp] theorem State.setNonce_lram {w : Nat} (b : Block w) (s : State) : (s.setNonce b).lram = s.lram := rfl
@[simp] theorem State.setNonce_inFifo {w : Nat} (b : Block w) (s : State) : (s.setNonce b).inFifo = s.inFifo := rfl
@[simp] theorem State.setNonce_outFifo {w : Nat} (b : Block w) (s : State) : (s.setNonce b).outFifo = s.outFifo := rfl
@[simp] theorem State.setNonce_seq {w : Nat} (b : Block w) (s : State) : (s.setNonce b).seq = s.seq := rfl
@[simp] theorem State.setNonce_host {w : Nat} (b : Block w) (s : State) : (s.setNonce b).host = s.host := rfl
@[simp] theorem State.setNonce_turns {w : Nat} (b : Block w) (s : State) : (s.setNonce b).turns = s.turns := rfl
@[simp] theorem State.setNonce_results {w : Nat} (b : Block w) (s : State) : (s.setNonce b).results = s.results := rfl
@[simp] theorem State.setNonce_free {w : Nat} (b : Block w) (s : State) : (s.setNonce b).free = s.free := rfl

/-! ### After a Block stored to `PWC` -/

@[simp] theorem State.setPwc_params {w : Nat} (b : Block w) (s : State) : (s.setPwc b).params = s.params := rfl
@[simp] theorem State.setPwc_ie {w : Nat} (b : Block w) (s : State) : (s.setPwc b).ie = s.ie := rfl
@[simp] theorem State.setPwc_done {w : Nat} (b : Block w) (s : State) : (s.setPwc b).done = s.done := rfl
@[simp] theorem State.setPwc_kvalid {w : Nat} (b : Block w) (s : State) : (s.setPwc b).kvalid = s.kvalid := rfl
@[simp] theorem State.setPwc_wdrop {w : Nat} (b : Block w) (s : State) : (s.setPwc b).wdrop = s.wdrop := rfl
@[simp] theorem State.setPwc_inovf {w : Nat} (b : Block w) (s : State) : (s.setPwc b).inovf = s.inovf := rfl
@[simp] theorem State.setPwc_err {w : Nat} (b : Block w) (s : State) : (s.setPwc b).err = s.err := rfl
@[simp] theorem State.setPwc_lastop {w : Nat} (b : Block w) (s : State) : (s.setPwc b).lastop = s.lastop := rfl
@[simp] theorem State.setPwc_cfg {w : Nat} (b : Block w) (s : State) : (s.setPwc b).cfg = s.cfg := rfl
@[simp] theorem State.setPwc_cmd {w : Nat} (b : Block w) (s : State) : (s.setPwc b).cmd = s.cmd := rfl
@[simp] theorem State.setPwc_ema {w : Nat} (b : Block w) (s : State) : (s.setPwc b).ema = s.ema := rfl
@[simp] theorem State.setPwc_kp {w : Nat} (b : Block w) (s : State) : (s.setPwc b).kp = s.kp := rfl
@[simp] theorem State.setPwc_kq {w : Nat} (b : Block w) (s : State) : (s.setPwc b).kq = s.kq := rfl
@[simp] theorem State.setPwc_blkcnt {w : Nat} (b : Block w) (s : State) : (s.setPwc b).blkcnt = s.blkcnt := rfl
@[simp] theorem State.setPwc_incnt {w : Nat} (b : Block w) (s : State) : (s.setPwc b).incnt = s.incnt := rfl
@[simp] theorem State.setPwc_outcnt {w : Nat} (b : Block w) (s : State) : (s.setPwc b).outcnt = s.outcnt := rfl
@[simp] theorem State.setPwc_sidx {w : Nat} (b : Block w) (s : State) : (s.setPwc b).sidx = s.sidx := rfl
@[simp] theorem State.setPwc_blk {w : Nat} (b : Block w) (s : State) : (s.setPwc b).blk = s.blk := rfl
@[simp] theorem State.setPwc_nonce {w : Nat} (b : Block w) (s : State) : (s.setPwc b).nonce = s.nonce := rfl
@[simp] theorem State.setPwc_key {w : Nat} (b : Block w) (s : State) : (s.setPwc b).key = s.key := rfl
@[simp] theorem State.setPwc_pwc {w : Nat} (b : Block w) (s : State) : (s.setPwc b).pwc = storeBlock b s.pwc := rfl
@[simp] theorem State.setPwc_pwtag {w : Nat} (b : Block w) (s : State) : (s.setPwc b).pwtag = s.pwtag := rfl
@[simp] theorem State.setPwc_sched {w : Nat} (b : Block w) (s : State) : (s.setPwc b).sched = s.sched := rfl
@[simp] theorem State.setPwc_lram {w : Nat} (b : Block w) (s : State) : (s.setPwc b).lram = s.lram := rfl
@[simp] theorem State.setPwc_inFifo {w : Nat} (b : Block w) (s : State) : (s.setPwc b).inFifo = s.inFifo := rfl
@[simp] theorem State.setPwc_outFifo {w : Nat} (b : Block w) (s : State) : (s.setPwc b).outFifo = s.outFifo := rfl
@[simp] theorem State.setPwc_seq {w : Nat} (b : Block w) (s : State) : (s.setPwc b).seq = s.seq := rfl
@[simp] theorem State.setPwc_host {w : Nat} (b : Block w) (s : State) : (s.setPwc b).host = s.host := rfl
@[simp] theorem State.setPwc_turns {w : Nat} (b : Block w) (s : State) : (s.setPwc b).turns = s.turns := rfl
@[simp] theorem State.setPwc_results {w : Nat} (b : Block w) (s : State) : (s.setPwc b).results = s.results := rfl
@[simp] theorem State.setPwc_free {w : Nat} (b : Block w) (s : State) : (s.setPwc b).free = s.free := rfl

/-! ### After the counters after one Mode Composer block (R223) -/

@[simp] theorem State.advanceNonce_params (c : Cfg) (s : State) : (s.advanceNonce c).params = s.params := rfl
@[simp] theorem State.advanceNonce_ie (c : Cfg) (s : State) : (s.advanceNonce c).ie = s.ie := rfl
@[simp] theorem State.advanceNonce_done (c : Cfg) (s : State) : (s.advanceNonce c).done = s.done := rfl
@[simp] theorem State.advanceNonce_kvalid (c : Cfg) (s : State) : (s.advanceNonce c).kvalid = s.kvalid := rfl
@[simp] theorem State.advanceNonce_wdrop (c : Cfg) (s : State) : (s.advanceNonce c).wdrop = s.wdrop := rfl
@[simp] theorem State.advanceNonce_inovf (c : Cfg) (s : State) : (s.advanceNonce c).inovf = s.inovf := rfl
@[simp] theorem State.advanceNonce_err (c : Cfg) (s : State) : (s.advanceNonce c).err = s.err := rfl
@[simp] theorem State.advanceNonce_lastop (c : Cfg) (s : State) : (s.advanceNonce c).lastop = s.lastop := rfl
@[simp] theorem State.advanceNonce_cfg (c : Cfg) (s : State) : (s.advanceNonce c).cfg = s.cfg := rfl
@[simp] theorem State.advanceNonce_cmd (c : Cfg) (s : State) : (s.advanceNonce c).cmd = s.cmd := rfl
@[simp] theorem State.advanceNonce_ema (c : Cfg) (s : State) : (s.advanceNonce c).ema = s.ema := rfl
@[simp] theorem State.advanceNonce_kp (c : Cfg) (s : State) : (s.advanceNonce c).kp = s.kp := rfl
@[simp] theorem State.advanceNonce_kq (c : Cfg) (s : State) : (s.advanceNonce c).kq = s.kq := rfl
@[simp] theorem State.advanceNonce_blkcnt (c : Cfg) (s : State) : (s.advanceNonce c).blkcnt = s.blkcnt + 1 := rfl
@[simp] theorem State.advanceNonce_incnt (c : Cfg) (s : State) : (s.advanceNonce c).incnt = s.incnt := rfl
@[simp] theorem State.advanceNonce_outcnt (c : Cfg) (s : State) : (s.advanceNonce c).outcnt = s.outcnt := rfl
@[simp] theorem State.advanceNonce_sidx (c : Cfg) (s : State) : (s.advanceNonce c).sidx = s.sidx := rfl
@[simp] theorem State.advanceNonce_blk (c : Cfg) (s : State) : (s.advanceNonce c).blk = s.blk := rfl
@[simp] theorem State.advanceNonce_nonce (c : Cfg) (s : State) : (s.advanceNonce c).nonce = storeBlock (nonceInc c.n (s.nonceBlock c)) s.nonce := rfl
@[simp] theorem State.advanceNonce_key (c : Cfg) (s : State) : (s.advanceNonce c).key = s.key := rfl
@[simp] theorem State.advanceNonce_pwc (c : Cfg) (s : State) : (s.advanceNonce c).pwc = s.pwc := rfl
@[simp] theorem State.advanceNonce_pwtag (c : Cfg) (s : State) : (s.advanceNonce c).pwtag = s.pwtag := rfl
@[simp] theorem State.advanceNonce_sched (c : Cfg) (s : State) : (s.advanceNonce c).sched = s.sched := rfl
@[simp] theorem State.advanceNonce_lram (c : Cfg) (s : State) : (s.advanceNonce c).lram = s.lram := rfl
@[simp] theorem State.advanceNonce_inFifo (c : Cfg) (s : State) : (s.advanceNonce c).inFifo = s.inFifo := rfl
@[simp] theorem State.advanceNonce_outFifo (c : Cfg) (s : State) : (s.advanceNonce c).outFifo = s.outFifo := rfl
@[simp] theorem State.advanceNonce_seq (c : Cfg) (s : State) : (s.advanceNonce c).seq = s.seq := rfl
@[simp] theorem State.advanceNonce_host (c : Cfg) (s : State) : (s.advanceNonce c).host = s.host := rfl
@[simp] theorem State.advanceNonce_turns (c : Cfg) (s : State) : (s.advanceNonce c).turns = s.turns := rfl
@[simp] theorem State.advanceNonce_results (c : Cfg) (s : State) : (s.advanceNonce c).results = s.results := rfl
@[simp] theorem State.advanceNonce_free (c : Cfg) (s : State) : (s.advanceNonce c).free = s.free := rfl

/-! ### After an EM key schedule's completion (R194) -/

@[simp] theorem State.finishEmKey_params (k : List Reg) (s : State) : (s.finishEmKey k).params = s.params := rfl
@[simp] theorem State.finishEmKey_ie (k : List Reg) (s : State) : (s.finishEmKey k).ie = s.ie := rfl
@[simp] theorem State.finishEmKey_done (k : List Reg) (s : State) : (s.finishEmKey k).done = true := rfl
@[simp] theorem State.finishEmKey_kvalid (k : List Reg) (s : State) : (s.finishEmKey k).kvalid = true := rfl
@[simp] theorem State.finishEmKey_wdrop (k : List Reg) (s : State) : (s.finishEmKey k).wdrop = s.wdrop := rfl
@[simp] theorem State.finishEmKey_inovf (k : List Reg) (s : State) : (s.finishEmKey k).inovf = s.inovf := rfl
@[simp] theorem State.finishEmKey_err (k : List Reg) (s : State) : (s.finishEmKey k).err = .none := rfl
@[simp] theorem State.finishEmKey_lastop (k : List Reg) (s : State) : (s.finishEmKey k).lastop = s.lastop := rfl
@[simp] theorem State.finishEmKey_cfg (k : List Reg) (s : State) : (s.finishEmKey k).cfg = s.cfg := rfl
@[simp] theorem State.finishEmKey_cmd (k : List Reg) (s : State) : (s.finishEmKey k).cmd = s.cmd := rfl
@[simp] theorem State.finishEmKey_ema (k : List Reg) (s : State) : (s.finishEmKey k).ema = s.ema := rfl
@[simp] theorem State.finishEmKey_kp (k : List Reg) (s : State) : (s.finishEmKey k).kp = s.kp := rfl
@[simp] theorem State.finishEmKey_kq (k : List Reg) (s : State) : (s.finishEmKey k).kq = s.kq := rfl
@[simp] theorem State.finishEmKey_blkcnt (k : List Reg) (s : State) : (s.finishEmKey k).blkcnt = s.blkcnt := rfl
@[simp] theorem State.finishEmKey_incnt (k : List Reg) (s : State) : (s.finishEmKey k).incnt = s.incnt := rfl
@[simp] theorem State.finishEmKey_outcnt (k : List Reg) (s : State) : (s.finishEmKey k).outcnt = s.outcnt := rfl
@[simp] theorem State.finishEmKey_sidx (k : List Reg) (s : State) : (s.finishEmKey k).sidx = s.sidx := rfl
@[simp] theorem State.finishEmKey_blk (k : List Reg) (s : State) : (s.finishEmKey k).blk = s.blk := rfl
@[simp] theorem State.finishEmKey_nonce (k : List Reg) (s : State) : (s.finishEmKey k).nonce = s.nonce := rfl
@[simp] theorem State.finishEmKey_key (k : List Reg) (s : State) : (s.finishEmKey k).key = overlay k s.key := rfl
@[simp] theorem State.finishEmKey_pwc (k : List Reg) (s : State) : (s.finishEmKey k).pwc = s.pwc := rfl
@[simp] theorem State.finishEmKey_pwtag (k : List Reg) (s : State) : (s.finishEmKey k).pwtag = s.pwtag := rfl
@[simp] theorem State.finishEmKey_sched (k : List Reg) (s : State) : (s.finishEmKey k).sched = s.sched := rfl
@[simp] theorem State.finishEmKey_lram (k : List Reg) (s : State) : (s.finishEmKey k).lram = s.lram := rfl
@[simp] theorem State.finishEmKey_inFifo (k : List Reg) (s : State) : (s.finishEmKey k).inFifo = s.inFifo := rfl
@[simp] theorem State.finishEmKey_outFifo (k : List Reg) (s : State) : (s.finishEmKey k).outFifo = s.outFifo := rfl
@[simp] theorem State.finishEmKey_seq (k : List Reg) (s : State) : (s.finishEmKey k).seq = .idle := rfl
@[simp] theorem State.finishEmKey_host (k : List Reg) (s : State) : (s.finishEmKey k).host = s.host := rfl
@[simp] theorem State.finishEmKey_turns (k : List Reg) (s : State) : (s.finishEmKey k).turns = s.turns := rfl
@[simp] theorem State.finishEmKey_results (k : List Reg) (s : State) : (s.finishEmKey k).results = s.results := rfl
@[simp] theorem State.finishEmKey_free (k : List Reg) (s : State) : (s.finishEmKey k).free = s.free := rfl

/-! ### After `LRAM` after a key schedule (R52) -/

@[simp] theorem State.freeLram_params (s : State) : (s.freeLram).params = s.params := rfl
@[simp] theorem State.freeLram_ie (s : State) : (s.freeLram).ie = s.ie := rfl
@[simp] theorem State.freeLram_done (s : State) : (s.freeLram).done = s.done := rfl
@[simp] theorem State.freeLram_kvalid (s : State) : (s.freeLram).kvalid = s.kvalid := rfl
@[simp] theorem State.freeLram_wdrop (s : State) : (s.freeLram).wdrop = s.wdrop := rfl
@[simp] theorem State.freeLram_inovf (s : State) : (s.freeLram).inovf = s.inovf := rfl
@[simp] theorem State.freeLram_err (s : State) : (s.freeLram).err = s.err := rfl
@[simp] theorem State.freeLram_lastop (s : State) : (s.freeLram).lastop = s.lastop := rfl
@[simp] theorem State.freeLram_cfg (s : State) : (s.freeLram).cfg = s.cfg := rfl
@[simp] theorem State.freeLram_cmd (s : State) : (s.freeLram).cmd = s.cmd := rfl
@[simp] theorem State.freeLram_ema (s : State) : (s.freeLram).ema = s.ema := rfl
@[simp] theorem State.freeLram_kp (s : State) : (s.freeLram).kp = s.kp := rfl
@[simp] theorem State.freeLram_kq (s : State) : (s.freeLram).kq = s.kq := rfl
@[simp] theorem State.freeLram_blkcnt (s : State) : (s.freeLram).blkcnt = s.blkcnt := rfl
@[simp] theorem State.freeLram_incnt (s : State) : (s.freeLram).incnt = s.incnt := rfl
@[simp] theorem State.freeLram_outcnt (s : State) : (s.freeLram).outcnt = s.outcnt := rfl
@[simp] theorem State.freeLram_sidx (s : State) : (s.freeLram).sidx = s.sidx := rfl
@[simp] theorem State.freeLram_blk (s : State) : (s.freeLram).blk = s.blk := rfl
@[simp] theorem State.freeLram_nonce (s : State) : (s.freeLram).nonce = s.nonce := rfl
@[simp] theorem State.freeLram_key (s : State) : (s.freeLram).key = s.key := rfl
@[simp] theorem State.freeLram_pwc (s : State) : (s.freeLram).pwc = s.pwc := rfl
@[simp] theorem State.freeLram_pwtag (s : State) : (s.freeLram).pwtag = s.pwtag := rfl
@[simp] theorem State.freeLram_sched (s : State) : (s.freeLram).sched = s.sched := rfl
@[simp] theorem State.freeLram_lram (s : State) : (s.freeLram).lram = freeBytes s.lram.length s.free := rfl
@[simp] theorem State.freeLram_inFifo (s : State) : (s.freeLram).inFifo = s.inFifo := rfl
@[simp] theorem State.freeLram_outFifo (s : State) : (s.freeLram).outFifo = s.outFifo := rfl
@[simp] theorem State.freeLram_seq (s : State) : (s.freeLram).seq = s.seq := rfl
@[simp] theorem State.freeLram_host (s : State) : (s.freeLram).host = s.host := rfl
@[simp] theorem State.freeLram_turns (s : State) : (s.freeLram).turns = s.turns := rfl
@[simp] theorem State.freeLram_results (s : State) : (s.freeLram).results = s.results := rfl
@[simp] theorem State.freeLram_free (s : State) : (s.freeLram).free = s.free + 1 := rfl

/-! ### After the key RAMs after a failed key schedule (R194) -/

@[simp] theorem State.freeKeyRams_params (n : Nat) (s : State) : (s.freeKeyRams n).params = s.params := rfl
@[simp] theorem State.freeKeyRams_ie (n : Nat) (s : State) : (s.freeKeyRams n).ie = s.ie := rfl
@[simp] theorem State.freeKeyRams_done (n : Nat) (s : State) : (s.freeKeyRams n).done = s.done := rfl
@[simp] theorem State.freeKeyRams_kvalid (n : Nat) (s : State) : (s.freeKeyRams n).kvalid = s.kvalid := rfl
@[simp] theorem State.freeKeyRams_wdrop (n : Nat) (s : State) : (s.freeKeyRams n).wdrop = s.wdrop := rfl
@[simp] theorem State.freeKeyRams_inovf (n : Nat) (s : State) : (s.freeKeyRams n).inovf = s.inovf := rfl
@[simp] theorem State.freeKeyRams_err (n : Nat) (s : State) : (s.freeKeyRams n).err = s.err := rfl
@[simp] theorem State.freeKeyRams_lastop (n : Nat) (s : State) : (s.freeKeyRams n).lastop = s.lastop := rfl
@[simp] theorem State.freeKeyRams_cfg (n : Nat) (s : State) : (s.freeKeyRams n).cfg = s.cfg := rfl
@[simp] theorem State.freeKeyRams_cmd (n : Nat) (s : State) : (s.freeKeyRams n).cmd = s.cmd := rfl
@[simp] theorem State.freeKeyRams_ema (n : Nat) (s : State) : (s.freeKeyRams n).ema = s.ema := rfl
@[simp] theorem State.freeKeyRams_kp (n : Nat) (s : State) : (s.freeKeyRams n).kp = s.kp := rfl
@[simp] theorem State.freeKeyRams_kq (n : Nat) (s : State) : (s.freeKeyRams n).kq = s.kq := rfl
@[simp] theorem State.freeKeyRams_blkcnt (n : Nat) (s : State) : (s.freeKeyRams n).blkcnt = s.blkcnt := rfl
@[simp] theorem State.freeKeyRams_incnt (n : Nat) (s : State) : (s.freeKeyRams n).incnt = s.incnt := rfl
@[simp] theorem State.freeKeyRams_outcnt (n : Nat) (s : State) : (s.freeKeyRams n).outcnt = s.outcnt := rfl
@[simp] theorem State.freeKeyRams_sidx (n : Nat) (s : State) : (s.freeKeyRams n).sidx = s.sidx := rfl
@[simp] theorem State.freeKeyRams_blk (n : Nat) (s : State) : (s.freeKeyRams n).blk = s.blk := rfl
@[simp] theorem State.freeKeyRams_nonce (n : Nat) (s : State) : (s.freeKeyRams n).nonce = s.nonce := rfl
@[simp] theorem State.freeKeyRams_key (n : Nat) (s : State) : (s.freeKeyRams n).key = overlay (freeRegs s.params.bits n s.free) s.key := rfl
@[simp] theorem State.freeKeyRams_pwc (n : Nat) (s : State) : (s.freeKeyRams n).pwc = s.pwc := rfl
@[simp] theorem State.freeKeyRams_pwtag (n : Nat) (s : State) : (s.freeKeyRams n).pwtag = s.pwtag := rfl
@[simp] theorem State.freeKeyRams_sched (n : Nat) (s : State) : (s.freeKeyRams n).sched = freeRegs s.params.bits s.sched.length (s.free + 1) := rfl
@[simp] theorem State.freeKeyRams_lram (n : Nat) (s : State) : (s.freeKeyRams n).lram = freeBytes s.lram.length (s.free + 2) := rfl
@[simp] theorem State.freeKeyRams_inFifo (n : Nat) (s : State) : (s.freeKeyRams n).inFifo = s.inFifo := rfl
@[simp] theorem State.freeKeyRams_outFifo (n : Nat) (s : State) : (s.freeKeyRams n).outFifo = s.outFifo := rfl
@[simp] theorem State.freeKeyRams_seq (n : Nat) (s : State) : (s.freeKeyRams n).seq = s.seq := rfl
@[simp] theorem State.freeKeyRams_host (n : Nat) (s : State) : (s.freeKeyRams n).host = s.host := rfl
@[simp] theorem State.freeKeyRams_turns (n : Nat) (s : State) : (s.freeKeyRams n).turns = s.turns := rfl
@[simp] theorem State.freeKeyRams_results (n : Nat) (s : State) : (s.freeKeyRams n).results = s.results := rfl
@[simp] theorem State.freeKeyRams_free (n : Nat) (s : State) : (s.freeKeyRams n).free = s.free + 3 := rfl

/-! ### After a `STATUS` write (R34) -/

@[simp] theorem State.writeStatus_params (v : Reg) (s : State) : (s.writeStatus v).params = s.params := rfl
@[simp] theorem State.writeStatus_ie (v : Reg) (s : State) : (s.writeStatus v).ie = s.ie := rfl
@[simp] theorem State.writeStatus_done (v : Reg) (s : State) : (s.writeStatus v).done = (s.done && !v.getLsbD 1) := rfl
@[simp] theorem State.writeStatus_kvalid (v : Reg) (s : State) : (s.writeStatus v).kvalid = s.kvalid := rfl
@[simp] theorem State.writeStatus_wdrop (v : Reg) (s : State) : (s.writeStatus v).wdrop = (s.wdrop && !v.getLsbD 3) := rfl
@[simp] theorem State.writeStatus_inovf (v : Reg) (s : State) : (s.writeStatus v).inovf = (s.inovf && !v.getLsbD 4) := rfl
@[simp] theorem State.writeStatus_err (v : Reg) (s : State) : (s.writeStatus v).err = s.err := rfl
@[simp] theorem State.writeStatus_lastop (v : Reg) (s : State) : (s.writeStatus v).lastop = s.lastop := rfl
@[simp] theorem State.writeStatus_cfg (v : Reg) (s : State) : (s.writeStatus v).cfg = s.cfg := rfl
@[simp] theorem State.writeStatus_cmd (v : Reg) (s : State) : (s.writeStatus v).cmd = s.cmd := rfl
@[simp] theorem State.writeStatus_ema (v : Reg) (s : State) : (s.writeStatus v).ema = s.ema := rfl
@[simp] theorem State.writeStatus_kp (v : Reg) (s : State) : (s.writeStatus v).kp = s.kp := rfl
@[simp] theorem State.writeStatus_kq (v : Reg) (s : State) : (s.writeStatus v).kq = s.kq := rfl
@[simp] theorem State.writeStatus_blkcnt (v : Reg) (s : State) : (s.writeStatus v).blkcnt = s.blkcnt := rfl
@[simp] theorem State.writeStatus_incnt (v : Reg) (s : State) : (s.writeStatus v).incnt = s.incnt := rfl
@[simp] theorem State.writeStatus_outcnt (v : Reg) (s : State) : (s.writeStatus v).outcnt = s.outcnt := rfl
@[simp] theorem State.writeStatus_sidx (v : Reg) (s : State) : (s.writeStatus v).sidx = s.sidx := rfl
@[simp] theorem State.writeStatus_blk (v : Reg) (s : State) : (s.writeStatus v).blk = s.blk := rfl
@[simp] theorem State.writeStatus_nonce (v : Reg) (s : State) : (s.writeStatus v).nonce = s.nonce := rfl
@[simp] theorem State.writeStatus_key (v : Reg) (s : State) : (s.writeStatus v).key = s.key := rfl
@[simp] theorem State.writeStatus_pwc (v : Reg) (s : State) : (s.writeStatus v).pwc = s.pwc := rfl
@[simp] theorem State.writeStatus_pwtag (v : Reg) (s : State) : (s.writeStatus v).pwtag = s.pwtag := rfl
@[simp] theorem State.writeStatus_sched (v : Reg) (s : State) : (s.writeStatus v).sched = s.sched := rfl
@[simp] theorem State.writeStatus_lram (v : Reg) (s : State) : (s.writeStatus v).lram = s.lram := rfl
@[simp] theorem State.writeStatus_inFifo (v : Reg) (s : State) : (s.writeStatus v).inFifo = s.inFifo := rfl
@[simp] theorem State.writeStatus_outFifo (v : Reg) (s : State) : (s.writeStatus v).outFifo = s.outFifo := rfl
@[simp] theorem State.writeStatus_seq (v : Reg) (s : State) : (s.writeStatus v).seq = s.seq := rfl
@[simp] theorem State.writeStatus_host (v : Reg) (s : State) : (s.writeStatus v).host = s.host := rfl
@[simp] theorem State.writeStatus_turns (v : Reg) (s : State) : (s.writeStatus v).turns = s.turns := rfl
@[simp] theorem State.writeStatus_results (v : Reg) (s : State) : (s.writeStatus v).results = s.results := rfl
@[simp] theorem State.writeStatus_free (v : Reg) (s : State) : (s.writeStatus v).free = s.free := rfl

/-! ### After a turn used up -/

@[simp] theorem State.popTurn_params (s : State) : (s.popTurn).params = s.params := rfl
@[simp] theorem State.popTurn_ie (s : State) : (s.popTurn).ie = s.ie := rfl
@[simp] theorem State.popTurn_done (s : State) : (s.popTurn).done = s.done := rfl
@[simp] theorem State.popTurn_kvalid (s : State) : (s.popTurn).kvalid = s.kvalid := rfl
@[simp] theorem State.popTurn_wdrop (s : State) : (s.popTurn).wdrop = s.wdrop := rfl
@[simp] theorem State.popTurn_inovf (s : State) : (s.popTurn).inovf = s.inovf := rfl
@[simp] theorem State.popTurn_err (s : State) : (s.popTurn).err = s.err := rfl
@[simp] theorem State.popTurn_lastop (s : State) : (s.popTurn).lastop = s.lastop := rfl
@[simp] theorem State.popTurn_cfg (s : State) : (s.popTurn).cfg = s.cfg := rfl
@[simp] theorem State.popTurn_cmd (s : State) : (s.popTurn).cmd = s.cmd := rfl
@[simp] theorem State.popTurn_ema (s : State) : (s.popTurn).ema = s.ema := rfl
@[simp] theorem State.popTurn_kp (s : State) : (s.popTurn).kp = s.kp := rfl
@[simp] theorem State.popTurn_kq (s : State) : (s.popTurn).kq = s.kq := rfl
@[simp] theorem State.popTurn_blkcnt (s : State) : (s.popTurn).blkcnt = s.blkcnt := rfl
@[simp] theorem State.popTurn_incnt (s : State) : (s.popTurn).incnt = s.incnt := rfl
@[simp] theorem State.popTurn_outcnt (s : State) : (s.popTurn).outcnt = s.outcnt := rfl
@[simp] theorem State.popTurn_sidx (s : State) : (s.popTurn).sidx = s.sidx := rfl
@[simp] theorem State.popTurn_blk (s : State) : (s.popTurn).blk = s.blk := rfl
@[simp] theorem State.popTurn_nonce (s : State) : (s.popTurn).nonce = s.nonce := rfl
@[simp] theorem State.popTurn_key (s : State) : (s.popTurn).key = s.key := rfl
@[simp] theorem State.popTurn_pwc (s : State) : (s.popTurn).pwc = s.pwc := rfl
@[simp] theorem State.popTurn_pwtag (s : State) : (s.popTurn).pwtag = s.pwtag := rfl
@[simp] theorem State.popTurn_sched (s : State) : (s.popTurn).sched = s.sched := rfl
@[simp] theorem State.popTurn_lram (s : State) : (s.popTurn).lram = s.lram := rfl
@[simp] theorem State.popTurn_inFifo (s : State) : (s.popTurn).inFifo = s.inFifo := rfl
@[simp] theorem State.popTurn_outFifo (s : State) : (s.popTurn).outFifo = s.outFifo := rfl
@[simp] theorem State.popTurn_seq (s : State) : (s.popTurn).seq = s.seq := rfl
@[simp] theorem State.popTurn_host (s : State) : (s.popTurn).host = s.host := rfl
@[simp] theorem State.popTurn_turns (s : State) : (s.popTurn).turns = s.turns.tail := rfl
@[simp] theorem State.popTurn_results (s : State) : (s.popTurn).results = s.results := rfl
@[simp] theorem State.popTurn_free (s : State) : (s.popTurn).free = s.free := rfl

end Sys2Proof.Machine
end

