-- ==== Sys2Proof/Laws/Blocks.lean ====
section
/-! SUPPORT. Laws of the operand forms: writing over the first places of a register block and reading them back, the sizes
and widths every operation on register blocks keeps, and the number of Words the block functions return. -/

namespace Sys2Proof.Machine

/-! ### `overlay` -/

@[simp] theorem overlay_length {α : Type} (xs rs : List α) : (overlay xs rs).length = rs.length := by
  induction xs generalizing rs with
  | nil => simp [overlay]
  | cons x xs ih => cases rs <;> simp [overlay, ih]

/-- A place below the written words holds the written word. -/
theorem overlay_getD_lt {α : Type} (xs rs : List α) (d : α) (j : Nat) (hx : j < xs.length) (hr : j < rs.length) :
    (overlay xs rs).getD j d = xs.getD j d := by
  induction xs generalizing rs j with
  | nil => simp at hx
  | cons x xs ih =>
    cases rs with
    | nil => simp at hr
    | cons r rs =>
      cases j with
      | zero => simp [overlay]
      | succ j => simpa [overlay] using ih rs j (by simpa using hx) (by simpa using hr)

/-- A place above the written words keeps its word. -/
theorem overlay_getD_ge {α : Type} (xs rs : List α) (d : α) (j : Nat) (hx : xs.length ≤ j) :
    (overlay xs rs).getD j d = rs.getD j d := by
  induction xs generalizing rs j with
  | nil => simp [overlay]
  | cons x xs ih =>
    cases rs with
    | nil => simp [overlay]
    | cons r rs =>
      cases j with
      | zero => simp at hx
      | succ j => simpa [overlay] using ih rs j (by simpa using hx)

/-- Every value after an overlay was in one of the two lists. -/
theorem mem_overlay {α : Type} (xs rs : List α) (y : α) (h : y ∈ overlay xs rs) : y ∈ xs ∨ y ∈ rs := by
  induction xs generalizing rs with
  | nil => exact .inr (by simpa [overlay] using h)
  | cons x xs ih =>
    cases rs with
    | nil => simp [overlay] at h
    | cons r rs =>
      rcases (by simpa [overlay] using h : y = x ∨ y ∈ overlay xs rs) with rfl | h
      · simp
      · rcases ih rs h with h | h <;> simp [h]

/-! ### Loading and storing blocks -/

theorem bits_le (wd : WordWidth) : wd.bits ≤ 64 := by cases wd <;> decide

theorem bits_pos (wd : WordWidth) : 0 < wd.bits := by cases wd <;> decide

@[simp] theorem loadBlock_length (w n : Nat) (regs : List Reg) : (loadBlock w n regs).length = n := by
  simp [loadBlock]

@[simp] theorem loadBlock_getD (w n : Nat) (regs : List Reg) (j : Nat) (h : j < n) :
    (loadBlock w n regs).getD j 0 = (regs.getD j 0).setWidth w := by
  simp [loadBlock, h]

@[simp] theorem toRegs_length {w : Nat} (b : Block w) : (toRegs b).length = b.length := by simp [toRegs]

@[simp] theorem storeBlock_length {w : Nat} (b : Block w) (regs : List Reg) :
    (storeBlock b regs).length = regs.length := by simp [storeBlock]

/-- Words `[N ..]` of a block register stay (10_state.md R51). -/
theorem storeBlock_getD_ge {w : Nat} (b : Block w) (regs : List Reg) (j : Nat) (h : b.length ≤ j) :
    (storeBlock b regs).getD j 0 = regs.getD j 0 := overlay_getD_ge _ _ _ _ (by simpa using h)

theorem setWidth_setWidth_of_le {w : Nat} (hw : w ≤ 64) (x : Word w) : (x.setWidth 64).setWidth w = x := by
  ext i hi
  have : i < 64 := by omega
  simp [hi, this]

/-- What is read back after a store is the Block stored. -/
theorem loadBlock_storeBlock {w n : Nat} (hw : w ≤ 64) (b : Block w) (regs : List Reg) (hb : b.length = n)
    (hr : n ≤ regs.length) : loadBlock w n (storeBlock b regs) = b := by
  apply List.ext_getElem (by simp [hb])
  intro j h1 h2
  have hj : j < n := by simpa using h1
  have h := overlay_getD_lt (toRegs b) regs 0 j (by simp [hb, hj]) (by omega)
  simp only [loadBlock, storeBlock, List.getElem_map, List.getElem_range, h]
  simp [toRegs, h2, setWidth_setWidth_of_le hw]

/-- As `loadBlock_storeBlock`, for a Block already in register values. -/
theorem loadBlock_overlay_toRegs {w n : Nat} (hw : w ≤ 64) (b : Block w) (regs : List Reg) (hb : b.length = n)
    (hr : n ≤ regs.length) : loadBlock w n (overlay (toRegs b) regs) = b := loadBlock_storeBlock hw b regs hb hr

/-! ### Widths -/

theorem wordsFit_iff (w : Nat) (regs : List Reg) : WordsFit w regs ↔ ∀ x ∈ regs, x.toNat < 2 ^ w := by
  simp [WordsFit]

theorem toNat_setWidth64_lt {w : Nat} (x : Word w) : (x.setWidth 64).toNat < 2 ^ w := by
  simpa using Nat.lt_of_le_of_lt (Nat.mod_le _ _) x.isLt

theorem truncReg_lt (w : Nat) (v : Reg) : (truncReg w v).toNat < 2 ^ w := toNat_setWidth64_lt _

theorem wordsFit_toRegs {w : Nat} (b : Block w) : WordsFit w (toRegs b) := by
  simp only [wordsFit_iff, toRegs, List.mem_map]
  rintro x ⟨y, -, rfl⟩
  exact toNat_setWidth64_lt y

theorem wordsFit_overlay {w : Nat} {xs rs : List Reg} (hx : WordsFit w xs) (hr : WordsFit w rs) :
    WordsFit w (overlay xs rs) := by
  rw [wordsFit_iff] at *
  intro y hy
  rcases mem_overlay _ _ _ hy with h | h
  · exact hx y h
  · exact hr y h

theorem wordsFit_storeBlock {w : Nat} (b : Block w) {regs : List Reg} (hr : WordsFit w regs) :
    WordsFit w (storeBlock b regs) := wordsFit_overlay (wordsFit_toRegs b) hr

theorem wordsFit_freeRegs (w n draw : Nat) : WordsFit w (freeRegs w n draw) := by
  simp only [wordsFit_iff, freeRegs, List.mem_map]
  rintro x ⟨i, -, rfl⟩
  exact truncReg_lt _ _

theorem wordsFit_set {w : Nat} {regs : List Reg} (hr : WordsFit w regs) (j : Nat) (v : Reg) :
    WordsFit w (regs.set j (truncReg w v)) := by
  rw [wordsFit_iff] at *
  intro x hx
  rcases List.mem_or_eq_of_mem_set hx with h | rfl
  · exact hr x h
  · exact truncReg_lt w v

/-- Storing the words a block register already holds changes nothing. -/
theorem storeBlock_loadBlock {w n : Nat} (regs : List Reg) (hf : WordsFit w regs) (regs' : List Reg) (hl : regs'.length = regs.length)
    (hge : ∀ j, n ≤ j → regs'.getD j 0 = regs.getD j 0) : storeBlock (loadBlock w n regs) regs' = regs := by
  rw [wordsFit_iff] at hf
  apply List.ext_getElem (by simp [hl])
  intro j h1 h2
  have hd : (storeBlock (loadBlock w n regs) regs').getD j 0 = regs.getD j 0 := by
    by_cases hj : j < n
    · rw [storeBlock, overlay_getD_lt _ _ _ _ (by simpa using hj) (by omega)]
      have hx := hf _ (List.getElem_mem h2)
      simp only [toRegs, loadBlock, List.map_map, List.getD_eq_getElem?_getD, List.getElem?_map,
        List.getElem?_range hj, List.getElem?_eq_getElem h2, Option.map_some, Option.getD_some, Function.comp]
      apply BitVec.eq_of_toNat_eq
      simpa [Nat.mod_eq_of_lt hx] using (regs[j]).isLt
    · rw [storeBlock_getD_ge _ _ _ (by simpa using hj)]
      exact hge j (by omega)
  simpa [List.getD_eq_getElem?_getD, List.getElem?_eq_getElem h2, List.getElem?_eq_getElem h1] using hd

/-! ### The number of Words of the block functions' results -/

@[simp] theorem xorBlock_length {w : Nat} (x y : Block w) : (xorBlock x y).length = min x.length y.length := by
  simp [xorBlock]

@[simp] theorem zeroBlock_length (w n : Nat) : (zeroBlock w n).length = n := by simp [zeroBlock]

@[simp] theorem unpack_length (w n : Nat) (bytes : List Byte) : (unpack w n bytes).length = n := by simp [unpack]

@[simp] theorem nibpack_length (bb : Nat) (nibs : List (BitVec 4)) : (nibpack bb nibs).length = bb := by
  simp [nibpack]

theorem foldl_length {α β : Type} (f : List β → α → List β) (hf : ∀ b a, (f b a).length = b.length) (l : List α)
    (b : List β) : (l.foldl f b).length = b.length := by
  induction l generalizing b with
  | nil => rfl
  | cons a l ih => simpa [hf] using ih (f b a)

@[simp] theorem emXorInto_length {w : Nat} (e : Bool) (a : Word w) (dst src : Nat) (b : Block w) :
    (emXorInto e a dst src b).length = b.length := by simp [emXorInto]

@[simp] theorem emRound_length {w : Nat} (e : Bool) (a : Word w) (n : Nat) (x : Block w) :
    (emRound e a n x).length = x.length := by
  simp only [emRound]
  rw [foldl_length _ (by intros; simp), foldl_length _ (by intros; simp)]

@[simp] theorem emUnround_length {w : Nat} (e : Bool) (a : Word w) (n : Nat) (x : Block w) :
    (emUnround e a n x).length = x.length := by
  simp only [emUnround]
  rw [foldl_length _ (by intros; simp), foldl_length _ (by intros; simp)]

@[simp] theorem emMix_length {w : Nat} (e : Bool) (a : Word w) (n k : Nat) (x : Block w) :
    (emMix e a n k x).length = x.length := by
  induction k with
  | zero => rfl
  | succ k ih => simp [emMix, ih]

@[simp] theorem emUnmix_length {w : Nat} (e : Bool) (a : Word w) (n k : Nat) (x : Block w) :
    (emUnmix e a n k x).length = x.length := by
  induction k with
  | zero => rfl
  | succ k ih => simp [emUnmix, ih]

@[simp] theorem ddrEncrypt_length {w : Nat} (r n : Nat) (s x : Block w) : (ddrEncrypt r n s x).length = x.length := by
  simp only [ddrEncrypt, addAt, List.length_set]
  rw [foldl_length _ (by intros; simp [ddrStep])]
  simp

@[simp] theorem ddrDecrypt_length {w : Nat} (r n : Nat) (s x : Block w) : (ddrDecrypt r n s x).length = x.length := by
  simp only [ddrDecrypt, subAt, List.length_set]
  rw [foldl_length _ (by intros; simp [ddrUnstep])]
  simp

theorem emEncrypt_length {w : Nat} (e : Bool) (a : Word w) (n k : Nat) (key x : Block w)
    (hk : key.length = x.length) : (emEncrypt e a n k key x).length = x.length := by simp [emEncrypt, hk]

theorem encryptBlock_length {w : Nat} (c : CipherCtx w) (x : Block w) (hk : c.key.length = x.length) :
    (encryptBlock c x).length = x.length := by
  unfold encryptBlock
  split <;> simp [emEncrypt, hk]

theorem decryptBlock_length {w : Nat} (c : CipherCtx w) (x : Block w) (hk : c.key.length = x.length) :
    (decryptBlock c x).length = x.length := by
  unfold decryptBlock
  split <;> simp [emDecrypt, hk]

@[simp] theorem cipher_key_length (c : Cfg) (s : State) : (s.cipher c).key.length = c.n := by simp [State.cipher]

@[simp] theorem cipher_n (c : Cfg) (s : State) : (s.cipher c).n = c.n := rfl

@[simp] theorem incFrom_length {w : Nat} (j : Nat) (v : Block w) : (incFrom j v).length = v.length := by
  induction j generalizing v with
  | zero => simp [incFrom]
  | succ j ih => simp only [incFrom]; split <;> simp [ih]

@[simp] theorem nonceInc_length {w : Nat} (n : Nat) (v : Block w) : (nonceInc n v).length = v.length := by
  simp [nonceInc]

end Sys2Proof.Machine
end

