-- ==== Sys2Proof/Laws/Ops.lean ====
section
/-! SUPPORT. For each shared operation, what it can answer, said once: completing, issuing, `take()`, `emit()`, the guarded
writes, and which agent's turn a step is. -/

namespace Sys2Proof.Machine

/-- `take()` holds exactly on an empty IN FIFO (20_memory.md R90). -/
theorem take_eq_none_iff (s : State) : s.take = none ↔ s.inFifo = [] := by
  unfold State.take
  split <;> simp_all

/-- `take()` on a token: it is removed, and counted if it is data (R90). -/
theorem take_cons {s : State} {tok : Token} {rest : List Token} (h : s.inFifo = tok :: rest) :
    s.take = some (tok, { s with inFifo := rest, incnt := if isData tok then s.incnt + 1 else s.incnt }) := by
  unfold State.take
  rw [h]

/-- Everything `take()` can answer. -/
theorem take_some {s s1 : State} {tok : Token} (h : s.take = some (tok, s1)) :
    ∃ rest, s.inFifo = tok :: rest
      ∧ s1 = { s with inFifo := rest, incnt := if isData tok then s.incnt + 1 else s.incnt } := by
  unfold State.take at h
  split at h
  · cases h
  · rename_i tok' rest heq
    simp only [Option.some.injEq, Prod.mk.injEq] at h
    obtain ⟨rfl, rfl⟩ := h
    exact ⟨rest, heq, rfl⟩

/-- `emit(b)` holds exactly on a full OUT FIFO (R91). -/
theorem emit_eq_none_iff (b : Byte) (s : State) : s.emit b = none ↔ s.params.outDepth ≤ s.outFifo.length := by
  unfold State.emit
  split <;> simp <;> omega

/-- Everything `emit(b)` can answer. -/
theorem emit_some {b : Byte} {s s1 : State} (h : s.emit b = some s1) :
    s.outFifo.length < s.params.outDepth
      ∧ s1 = { s with outFifo := s.outFifo ++ [b], outcnt := s.outcnt + 1 } := by
  unfold State.emit at h
  split at h
  · exact ⟨by assumption, by simpa using h.symm⟩
  · cases h

/-- The opcode field of a command's encoding (30_encoding.md R110). -/
@[simp] theorem cmdOp_encode (i : Instr) : cmdOp (encode i) = i.opcode := by cases i <;> decide

/-- The encoder sets no reserved bit (R110). -/
@[simp] theorem cmdRsv_encode (i : Instr) : cmdRsv (encode i) = 0 := by cases i <;> decide

/-- Everything issuing a command can lead to (44_control.md R271): it starts, or it completes at once with the first error
its checks find. -/
theorem issue_cases (i : Instr) (s : State) :
    let a : State :=
      { s with
        cmd := encode i, lastop := i.opcode, err := .none, done := false, incnt := 0, outcnt := 0
        kvalid := if i = .ksched then false else s.kvalid }
    (issueError i a = .none ∧ s.issue i = { a with seq := .run s.cfg (initialWork s.params s.cfg i) })
    ∨ (issueError i a ≠ .none
        ∧ s.issue i = { a with err := issueError i a, done := true, seq := .idle }) := by
  intro a
  have ha : (if i == .ksched then (s.accept (encode i)).dropKey else s.accept (encode i)) = a := by
    by_cases h : i = .ksched <;> simp [h, a, State.accept, State.dropKey]
  unfold State.issue
  simp only [ha]
  by_cases h : issueError i a = .none
  · left
    exact ⟨h, by rw [if_pos h]⟩
  · right
    exact ⟨h, by rw [if_neg h]; rfl⟩

/-- A guarded write while a command runs (R278). -/
theorem guarded_busy {s : State} (h : s.busy = true) (f : State → State) : s.guarded f = s.dropWrite := by
  simp [State.guarded, h]

/-- A guarded write while none runs. -/
theorem guarded_idle {s : State} (h : s.busy = false) (f : State → State) : s.guarded f = f s := by
  simp [State.guarded, h]

theorem busy_eq_false_iff (s : State) : s.busy = false ↔ s.seq = .idle := by
  unfold State.busy
  split <;> simp_all

theorem busy_eq_true_iff (s : State) : s.busy = true ↔ ∃ c work, s.seq = .run c work := by
  unfold State.busy
  split <;> simp_all

/-- A step is one turn of one agent (20_memory.md R93). -/
theorem step_cases {s t : State} (h : step s = .next t) :
    (nextTurn s = .host ∧ hostTurn s.popTurn = .next t)
    ∨ (nextTurn s = .engine ∧ engineTurn s.popTurn = .next t)
    ∨ (nextTurn s = .resetInput ∧ t = s.popTurn.resetEngine) := by
  unfold step takeTurn at h
  split at h
  · exact .inl ⟨by assumption, h⟩
  · exact .inr (.inl ⟨by assumption, h⟩)
  · simp only [Host.Outcome.next.injEq] at h
    exact .inr (.inr ⟨by assumption, h.symm⟩)

/-- The sequencer's turn while a command runs is that command's meaning. -/
theorem engineTurn_run {s : State} {c : Cfg} {work : Work} (h : s.seq = .run c work) :
    engineTurn s = exec work.op s := by
  simp [engineTurn, h]

/-- The sequencer's turn while none runs changes nothing (60_exceptions.md R313). -/
theorem engineTurn_idle {s : State} (h : s.seq = .idle) : engineTurn s = .next s := by
  simp [engineTurn, h]

end Sys2Proof.Machine
end

