-- ==== Sys2Proof/Laws/Commands.lean ====
section
/-! SUPPORT. Every command's meaning, phase by phase: issued while no command runs, its engine step while it runs, and
dropped while another command runs. A proof about a command cites these and unfolds no meaning. -/

namespace Sys2Proof.Machine

/-- With no command running, every command is issued (44_control.md R271). -/
theorem exec_idle (i : Instr) {s : State} (h : s.seq = .idle) : exec i s = .next (s.issue i) := by
  cases i <;>
    simp only [exec, execNop, execKsched, execNseed, execPwchk, execPwver, execMix, execUnmix, execBenc, execBdec,
      execMenc, execMdec, execNinc, execSenc, execSdec, h]

/-- With another command running, the write is dropped (R278). -/
theorem exec_other {i : Instr} {s : State} {c : Cfg} {work : Work} (h : s.seq = .run c work) (hne : work.op ≠ i) :
    exec i s = .next s.dropWrite := by
  cases i <;> cases work <;> first
    | exact absurd rfl hne
    | simp only [exec, execNop, execKsched, execNseed, execPwchk, execPwver, execMix, execUnmix, execBenc, execBdec,
        execMenc, execMdec, execNinc, execSenc, execSdec, h]

theorem exec_nop_run {s : State} {c : Cfg} (h : s.seq = .run c .nop) : exec .nop s = .next (s.complete .none) := by
  simp only [exec, execNop, h]

theorem exec_ksBytes_run {s : State} {c : Cfg} {k : List Reg} {buf : List Byte} {total : Nat}
    (h : s.seq = .run c (.ksBytes k buf total)) : exec .ksched s = .next (ksBytesStep c k buf total s) := by
  simp only [exec, execKsched, h]

theorem exec_ksHex_run {s : State} {c : Cfg} {k : List Reg} {nibs : List (BitVec 4)} {total : Nat}
    (h : s.seq = .run c (.ksHex k nibs total)) : exec .ksched s = .next (ksHexStep c k nibs total s) := by
  simp only [exec, execKsched, h]

theorem exec_ksDdr_run {s : State} {c : Cfg} {n : Nat} {acc : DdrAcc} (h : s.seq = .run c (.ksDdr n acc)) :
    exec .ksched s = .next (ksDdrStep c n acc s) := by
  simp only [exec, execKsched, h]

theorem exec_nseed_run {s : State} {c : Cfg} {buf : List Byte} {k : Nat} (h : s.seq = .run c (.nseed buf k)) :
    exec .nseed s = .next (nseedStep c buf k s) := by
  simp only [exec, execNseed, h]

theorem exec_pwchk_run {s : State} {c : Cfg} (h : s.seq = .run c .pwchk) :
    exec .pwchk s = .next ((s.setPwc (checkBlock (s.cipher c))).complete .none) := by
  simp only [exec, execPwchk, h]

theorem exec_pwver_run {s : State} {c : Cfg} (h : s.seq = .run c .pwver) :
    exec .pwver s = .next ((s.setPwc (checkBlock (s.cipher c))).complete
      (if tagMatches c.pwfull (checkBlock (s.cipher c)) (loadBlock s.params.bits c.n s.pwtag) then .none
       else .pwMismatch)) := by
  simp only [exec, execPwver, h]

theorem exec_mix_run {s : State} {c : Cfg} (h : s.seq = .run c .mix) :
    exec .mix s = .next
      ((s.setBlk (emMix c.emrot (s.ema.setWidth s.params.bits) c.n c.r (s.blkBlock c))).complete .none) := by
  simp only [exec, execMix, h]

theorem exec_unmix_run {s : State} {c : Cfg} (h : s.seq = .run c .unmix) :
    exec .unmix s = .next
      ((s.setBlk (emUnmix c.emrot (s.ema.setWidth s.params.bits) c.n c.r (s.blkBlock c))).complete .none) := by
  simp only [exec, execUnmix, h]

theorem exec_benc_run {s : State} {c : Cfg} (h : s.seq = .run c .benc) :
    exec .benc s = .next ((s.setBlk (encryptBlock (s.cipher c) (s.blkBlock c))).complete .none) := by
  simp only [exec, execBenc, h]

theorem exec_bdec_run {s : State} {c : Cfg} (h : s.seq = .run c .bdec) :
    exec .bdec s = .next ((s.setBlk (decryptBlock (s.cipher c) (s.blkBlock c))).complete .none) := by
  simp only [exec, execBdec, h]

theorem exec_menc_run {s : State} {c : Cfg} (h : s.seq = .run c .menc) :
    exec .menc s = .next
      (((s.setBlk (mcEncBlock (s.cipher c) (s.nonceBlock c) (s.blkBlock c))).advanceNonce c).complete .none) := by
  simp only [exec, execMenc, h]

theorem exec_mdec_run {s : State} {c : Cfg} (h : s.seq = .run c .mdec) :
    exec .mdec s = .next
      (((s.setBlk (mcDecBlock (s.cipher c) (s.nonceBlock c) (s.blkBlock c))).advanceNonce c).complete .none) := by
  simp only [exec, execMdec, h]

theorem exec_ninc_run {s : State} {c : Cfg} (h : s.seq = .run c .ninc) :
    exec .ninc s = .next ((s.setNonce (nonceInc c.n (s.nonceBlock c))).complete .none) := by
  simp only [exec, execNinc, h]

theorem exec_senc_take {s : State} {c : Cfg} {buf : List Byte} {last : Bool} (h : s.seq = .run c (.senc buf [] last)) :
    exec .senc s = .next (sencTake c buf s) := by
  simp only [exec, execSenc, h]

theorem exec_senc_emit {s : State} {c : Cfg} {buf rest : List Byte} {b : Byte} {last : Bool}
    (h : s.seq = .run c (.senc buf (b :: rest) last)) :
    exec .senc s = .next (emitStep c (fun out => .senc buf out last) b rest last s) := by
  simp only [exec, execSenc, h]

theorem exec_sdec_take {s : State} {c : Cfg} {buf : List Byte} {held : Option (List Byte)} {last : Bool}
    (h : s.seq = .run c (.sdec buf held [] last)) : exec .sdec s = .next (sdecTake c buf held s) := by
  simp only [exec, execSdec, h]

theorem exec_sdec_emit {s : State} {c : Cfg} {buf rest : List Byte} {held : Option (List Byte)} {b : Byte} {last : Bool}
    (h : s.seq = .run c (.sdec buf held (b :: rest) last)) :
    exec .sdec s = .next (emitStep c (fun out => .sdec buf held out last) b rest last s) := by
  simp only [exec, execSdec, h]

end Sys2Proof.Machine
end

