-- ==== Sys2Proof/Laws/HostAccess.lean ====
section
/-! SUPPORT. The host's accesses of more than one read: what one access of `POLL` and of `DRAIN` does (30_encoding.md R128,
R130), and what `OUTPOP` returns (R120). -/

namespace Sys2Proof.Machine

/-- `OUTPOP` on an empty OUT FIFO (R49). -/
theorem readReg_outpop_empty {s : State} (h : s.outFifo = []) : s.readReg .outpop = (0, s) := by
  simp only [State.readReg, State.popOut, h]

/-- `OUTPOP` pops the head byte (R49). -/
theorem readReg_outpop_byte {s : State} {b : Byte} {out : List Byte} (h : s.outFifo = b :: out) :
    s.readReg .outpop = ((0 : BitVec 55) ++ (1 : BitVec 1) ++ b, { s with outFifo := out }) := by
  simp only [State.readReg, State.popOut, h]

/-- Bit 8 of the word `OUTPOP` returns for a byte is its valid flag (R120). -/
theorem outWord_valid (b : Byte) : ((0 : BitVec 55) ++ (1 : BitVec 1) ++ b).getLsbD 8 = true := by
  rw [BitVec.getLsbD_append, BitVec.getLsbD_append]
  rfl

/-- Bits [7:0] of it are the byte. -/
theorem outWord_byte (b : Byte) : ((0 : BitVec 55) ++ (1 : BitVec 1) ++ b).extractLsb' 0 8 = b := by
  ext k hk
  simp only [BitVec.getElem_extractLsb', BitVec.getLsbD_append, Nat.zero_add, hk, if_true]
  exact BitVec.getLsbD_eq_getElem hk

/-- `DRAIN` with no byte still to come ends, and keeps the byte string. -/
theorem drainOnce_zero (got : List Byte) (rest : List HostAct) (s : State) :
    s.drainOnce 0 got rest = { s with host := rest, results := .bytes got :: s.results } := rfl

/-- A read that returns 0 is discarded, and the action reads again. -/
theorem drainOnce_empty {s : State} (h : s.outFifo = []) (k : Nat) (got : List Byte) (rest : List HostAct) :
    s.drainOnce (k + 1) got rest = { s with host := .drain (k + 1) got :: rest } := by
  simp only [State.drainOnce, readReg_outpop_empty h]
  rfl

/-- The last byte ends the action, and the byte string is kept. -/
theorem drainOnce_last {s : State} {b : Byte} {out : List Byte} (h : s.outFifo = b :: out) (got : List Byte)
    (rest : List HostAct) :
    s.drainOnce 1 got rest
      = { s with outFifo := out, host := rest, results := .bytes (got ++ [b]) :: s.results } := by
  simp only [State.drainOnce, readReg_outpop_byte h, outWord_valid, outWord_byte, if_true]

/-- Any other byte joins those collected. -/
theorem drainOnce_byte {s : State} {b : Byte} {out : List Byte} (h : s.outFifo = b :: out) (k : Nat) (got : List Byte)
    (rest : List HostAct) :
    s.drainOnce (k + 2) got rest = { s with outFifo := out, host := .drain (k + 1) (got ++ [b]) :: rest } := by
  simp only [State.drainOnce, readReg_outpop_byte h, outWord_valid, outWord_byte, if_true]
  rfl

/-- On the host's turn a step is the access at the head of its program (00_scope.md R14). -/
theorem step_host {s : State} (h : nextTurn s = .host) : step s = hostTurn s.popTurn := by
  simp only [step, h, takeTurn]

end Sys2Proof.Machine
end

