-- ==== Sys2Proof/Laws/PerInstr.lean ====
section
/-! SUPPORT. Statements about each command as syntax, one lemma per constructor. -/

/-- A command an instance has decodes from its encoding, whatever the build parameters (30_encoding.md R110, R111). -/
def Sys2Proof.Laws.DecodeEncode.Statement (i : Sys2Proof.Instr) : Prop :=
  ∀ p : Sys2Proof.Params, i.wellFormed p = true → Sys2Proof.decode p (Sys2Proof.encode i) = .ok i

/-- What a command's lemma needs of its encoding: no reserved bit, and an opcode the table gives back to it. -/
theorem Sys2Proof.Laws.DecodeEncode.of_opcode {i : Sys2Proof.Instr}
    (hr : Sys2Proof.cmdRsv (Sys2Proof.encode i) = 0)
    (ho : Sys2Proof.ofOpcode (Sys2Proof.cmdOp (Sys2Proof.encode i)) = some i) :
    Sys2Proof.Laws.DecodeEncode.Statement i := by
  intro p h
  simp only [Sys2Proof.decode, hr, ho, h, ne_eq, not_true_eq_false, if_false, if_true]

theorem Sys2Proof.Laws.DecodeEncode.nop : Sys2Proof.Laws.DecodeEncode.Statement .nop :=
  Sys2Proof.Laws.DecodeEncode.of_opcode (by decide) (by decide)

theorem Sys2Proof.Laws.DecodeEncode.ksched : Sys2Proof.Laws.DecodeEncode.Statement .ksched :=
  Sys2Proof.Laws.DecodeEncode.of_opcode (by decide) (by decide)

theorem Sys2Proof.Laws.DecodeEncode.nseed : Sys2Proof.Laws.DecodeEncode.Statement .nseed :=
  Sys2Proof.Laws.DecodeEncode.of_opcode (by decide) (by decide)

theorem Sys2Proof.Laws.DecodeEncode.pwchk : Sys2Proof.Laws.DecodeEncode.Statement .pwchk :=
  Sys2Proof.Laws.DecodeEncode.of_opcode (by decide) (by decide)

theorem Sys2Proof.Laws.DecodeEncode.pwver : Sys2Proof.Laws.DecodeEncode.Statement .pwver :=
  Sys2Proof.Laws.DecodeEncode.of_opcode (by decide) (by decide)

theorem Sys2Proof.Laws.DecodeEncode.mix : Sys2Proof.Laws.DecodeEncode.Statement .mix :=
  Sys2Proof.Laws.DecodeEncode.of_opcode (by decide) (by decide)

theorem Sys2Proof.Laws.DecodeEncode.unmix : Sys2Proof.Laws.DecodeEncode.Statement .unmix :=
  Sys2Proof.Laws.DecodeEncode.of_opcode (by decide) (by decide)

theorem Sys2Proof.Laws.DecodeEncode.benc : Sys2Proof.Laws.DecodeEncode.Statement .benc :=
  Sys2Proof.Laws.DecodeEncode.of_opcode (by decide) (by decide)

theorem Sys2Proof.Laws.DecodeEncode.bdec : Sys2Proof.Laws.DecodeEncode.Statement .bdec :=
  Sys2Proof.Laws.DecodeEncode.of_opcode (by decide) (by decide)

theorem Sys2Proof.Laws.DecodeEncode.menc : Sys2Proof.Laws.DecodeEncode.Statement .menc :=
  Sys2Proof.Laws.DecodeEncode.of_opcode (by decide) (by decide)

theorem Sys2Proof.Laws.DecodeEncode.mdec : Sys2Proof.Laws.DecodeEncode.Statement .mdec :=
  Sys2Proof.Laws.DecodeEncode.of_opcode (by decide) (by decide)

theorem Sys2Proof.Laws.DecodeEncode.ninc : Sys2Proof.Laws.DecodeEncode.Statement .ninc :=
  Sys2Proof.Laws.DecodeEncode.of_opcode (by decide) (by decide)

theorem Sys2Proof.Laws.DecodeEncode.senc : Sys2Proof.Laws.DecodeEncode.Statement .senc :=
  Sys2Proof.Laws.DecodeEncode.of_opcode (by decide) (by decide)

theorem Sys2Proof.Laws.DecodeEncode.sdec : Sys2Proof.Laws.DecodeEncode.Statement .sdec :=
  Sys2Proof.Laws.DecodeEncode.of_opcode (by decide) (by decide)
end

