-- ==== Sys2Proof/Laws/Streams.lean ====
section
/-! SUPPORT. The engine step of each stream-reading command, by the token at the head of the IN FIFO: a data byte, EOF, or an
ERR or reserved token; and with the IN FIFO empty, nothing (20_memory.md R90). -/

namespace Sys2Proof.Machine

/-- `take()` on a data token: removed and counted (R90). -/
theorem take_data {s : State} {b : Byte} {rest : List Token} (h : s.inFifo = .data b :: rest) :
    s.take = some (.data b, { s with inFifo := rest, incnt := s.incnt + 1 }) := take_cons h

/-- `take()` on EOF: removed, not counted. -/
theorem take_eof {s : State} {rest : List Token} (h : s.inFifo = .eof :: rest) :
    s.take = some (.eof, { s with inFifo := rest }) := take_cons h

/-- `take()` on ERR: removed, not counted. -/
theorem take_err {s : State} {rest : List Token} (h : s.inFifo = .err :: rest) :
    s.take = some (.err, { s with inFifo := rest }) := take_cons h

/-- `take()` on a reserved token: removed, not counted. -/
theorem take_reserved {s : State} {rest : List Token} (h : s.inFifo = .reserved :: rest) :
    s.take = some (.reserved, { s with inFifo := rest }) := take_cons h

/-- `take()` on an empty IN FIFO: the command holds. -/
theorem take_empty {s : State} (h : s.inFifo = []) : s.take = none := (take_eq_none_iff s).2 h

section
variable {s : State} {c : Cfg} {rest : List Token}

theorem ksBytesStep_empty {k : List Reg} {buf : List Byte} {total : Nat} (h : s.inFifo = []) :
    ksBytesStep c k buf total s = s := by
  simp only [ksBytesStep, take_empty h]

theorem ksBytesStep_data {k : List Reg} {buf : List Byte} {total : Nat} {b : Byte} (h : s.inFifo = .data b :: rest) :
    ksBytesStep c k buf total s =
      { s with
        inFifo := rest, incnt := s.incnt + 1
        seq := .run c
          (if buf.length + 1 = blockBytes s.params.bits c.n then .ksBytes (emAbsorb c s k (buf ++ [b])) [] (total + 1)
           else .ksBytes k (buf ++ [b]) (total + 1)) } := by
  simp only [ksBytesStep, take_data h, State.continueWith, List.length_append, List.length_singleton]
  split <;> rfl

theorem ksBytesStep_eof {k : List Reg} {buf : List Byte} {total : Nat} (h : s.inFifo = .eof :: rest) :
    ksBytesStep c k buf total s
      = State.finishEmKey (emAbsorb c s k (emFinalChunk s.params.bits buf total)) { s with inFifo := rest } := by
  simp only [ksBytesStep, take_eof h]

theorem ksBytesStep_failed {k : List Reg} {buf : List Byte} {total : Nat}
    (h : s.inFifo = .err :: rest ∨ s.inFifo = .reserved :: rest) :
    ksBytesStep c k buf total s = State.failKey c .io { s with inFifo := rest } := by
  obtain h | h := h
  · simp only [ksBytesStep, take_err h]
  · simp only [ksBytesStep, take_reserved h]

theorem ksHexStep_empty {k : List Reg} {nibs : List (BitVec 4)} {total : Nat} (h : s.inFifo = []) :
    ksHexStep c k nibs total s = s := by
  simp only [ksHexStep, take_empty h]

theorem ksHexStep_data {k : List Reg} {nibs : List (BitVec 4)} {total : Nat} {b : Byte}
    (h : s.inFifo = .data b :: rest) (hb : b.toNat ≤ 0x0F) :
    ksHexStep c k nibs total s =
      { s with
        inFifo := rest, incnt := s.incnt + 1
        seq := .run c
          (if nibs.length + 1 = 2 * blockBytes s.params.bits c.n then
            .ksHex (emAbsorb c s k (nibpack (blockBytes s.params.bits c.n) (nibs ++ [b.setWidth 4]))) [] (total + 1)
           else .ksHex k (nibs ++ [b.setWidth 4]) (total + 1)) } := by
  simp only [ksHexStep, take_data h, State.continueWith, List.length_append, List.length_singleton]
  rw [if_neg (by omega)]
  split <;> rfl

theorem ksHexStep_badNibble {k : List Reg} {nibs : List (BitVec 4)} {total : Nat} {b : Byte}
    (h : s.inFifo = .data b :: rest) (hb : 0x0F < b.toNat) :
    ksHexStep c k nibs total s = State.complete .keyFmt { s with inFifo := rest, incnt := s.incnt + 1 } := by
  simp only [ksHexStep, take_data h]
  rw [if_pos hb]

theorem ksHexStep_eof {k : List Reg} {nibs : List (BitVec 4)} {total : Nat} (h : s.inFifo = .eof :: rest) :
    ksHexStep c k nibs total s
      = State.finishEmKey
          (emAbsorb c s k (nibpack (blockBytes s.params.bits c.n) (hexFinalChunk s.params.bits nibs total)))
          { s with inFifo := rest } := by
  simp only [ksHexStep, take_eof h]

theorem ksHexStep_failed {k : List Reg} {nibs : List (BitVec 4)} {total : Nat}
    (h : s.inFifo = .err :: rest ∨ s.inFifo = .reserved :: rest) :
    ksHexStep c k nibs total s = State.failKey c .io { s with inFifo := rest } := by
  obtain h | h := h
  · simp only [ksHexStep, take_err h]
  · simp only [ksHexStep, take_reserved h]

theorem ksDdrStep_empty {n : Nat} {acc : DdrAcc} (h : s.inFifo = []) : ksDdrStep c n acc s = s := by
  simp only [ksDdrStep, take_empty h]

theorem ksDdrStep_data {n : Nat} {acc : DdrAcc} {b : Byte} (h : s.inFifo = .data b :: rest)
    (hn : n ≠ s.params.lMaxBytes) :
    ksDdrStep c n acc s =
      { s with
        inFifo := rest, incnt := s.incnt + 1, lram := s.lram.set n b, seq := .run c (.ksDdr (n + 1) acc) } := by
  simp only [ksDdrStep, take_data h]
  rw [if_neg hn]
  rfl

theorem ksDdrStep_tooLong {n : Nat} {acc : DdrAcc} {b : Byte} (h : s.inFifo = .data b :: rest)
    (hn : n = s.params.lMaxBytes) :
    ksDdrStep c n acc s = State.failKey c .keyLen { s with inFifo := rest, incnt := s.incnt + 1 } := by
  simp only [ksDdrStep, take_data h]
  rw [if_pos hn]

theorem ksDdrStep_eof {n : Nat} {acc : DdrAcc} (h : s.inFifo = .eof :: rest) :
    ksDdrStep c n acc s
      = State.finishDdrKey
          (ddrExpand c.srot c.t (s.kp.setWidth s.params.bits) (s.kq.setWidth s.params.bits) acc (s.lram.take n))
          { s with inFifo := rest } := by
  simp only [ksDdrStep, take_eof h]

theorem ksDdrStep_failed {n : Nat} {acc : DdrAcc} (h : s.inFifo = .err :: rest ∨ s.inFifo = .reserved :: rest) :
    ksDdrStep c n acc s = State.failKey c .io { s with inFifo := rest } := by
  obtain h | h := h
  · simp only [ksDdrStep, take_err h]
  · simp only [ksDdrStep, take_reserved h]

theorem nseedStep_empty {buf : List Byte} {k : Nat} (h : s.inFifo = []) : nseedStep c buf k s = s := by
  simp only [nseedStep, take_empty h]

theorem nseedStep_data {buf : List Byte} {k : Nat} {b : Byte} (h : s.inFifo = .data b :: rest) :
    nseedStep c buf k s =
      { s with
        inFifo := rest, incnt := s.incnt + 1
        seq := .run c (.nseed (seedFold (blockBytes s.params.bits c.n) buf k b) (k + 1)) } := by
  simp only [nseedStep, take_data h]
  rfl

theorem nseedStep_eof {buf : List Byte} {k : Nat} (h : s.inFifo = .eof :: rest) :
    nseedStep c buf k s
      = (State.setNonce (unpack s.params.bits c.n buf) { s with inFifo := rest }).complete .none := by
  simp only [nseedStep, take_eof h]

theorem nseedStep_failed {buf : List Byte} {k : Nat} (h : s.inFifo = .err :: rest ∨ s.inFifo = .reserved :: rest) :
    nseedStep c buf k s = State.complete .io { s with inFifo := rest } := by
  obtain h | h := h
  · simp only [nseedStep, take_err h]
  · simp only [nseedStep, take_reserved h]

theorem sencTake_empty {buf : List Byte} (h : s.inFifo = []) : sencTake c buf s = s := by
  simp only [sencTake, take_empty h]

theorem sencTake_partial {buf : List Byte} {b : Byte} (h : s.inFifo = .data b :: rest)
    (hb : buf.length + 1 ≠ blockBytes s.params.bits c.n) :
    sencTake c buf s =
      { s with inFifo := rest, incnt := s.incnt + 1, seq := .run c (.senc (buf ++ [b]) [] false) } := by
  simp only [sencTake, take_data h, List.length_append, List.length_singleton]
  rw [if_neg hb]
  rfl

theorem sencTake_full {buf : List Byte} {b : Byte} (h : s.inFifo = .data b :: rest)
    (hb : buf.length + 1 = blockBytes s.params.bits c.n) :
    sencTake c buf s
      = State.emitThen c (fun out => .senc [] out false) (sencBlockBytes c s (buf ++ [b])) false
          (State.advanceNonce c { s with inFifo := rest, incnt := s.incnt + 1 }) := by
  simp only [sencTake, take_data h, List.length_append, List.length_singleton]
  rw [if_pos hb]

theorem sencTake_eof {buf : List Byte} (h : s.inFifo = .eof :: rest) :
    sencTake c buf s
      = State.emitThen c (fun out => .senc [] out true) (sencBlockBytes c s (buf ++ [sentinel])) true
          (State.advanceNonce c { s with inFifo := rest }) := by
  simp only [sencTake, take_eof h]

theorem sencTake_failed {buf : List Byte} (h : s.inFifo = .err :: rest ∨ s.inFifo = .reserved :: rest) :
    sencTake c buf s = State.complete .io { s with inFifo := rest } := by
  obtain h | h := h
  · simp only [sencTake, take_err h]
  · simp only [sencTake, take_reserved h]

theorem sdecTake_empty {buf : List Byte} {held : Option (List Byte)} (h : s.inFifo = []) :
    sdecTake c buf held s = s := by
  simp only [sdecTake, take_empty h]

theorem sdecTake_partial {buf : List Byte} {held : Option (List Byte)} {b : Byte} (h : s.inFifo = .data b :: rest)
    (hb : buf.length + 1 ≠ blockBytes s.params.bits c.n) :
    sdecTake c buf held s =
      { s with inFifo := rest, incnt := s.incnt + 1, seq := .run c (.sdec (buf ++ [b]) held [] false) } := by
  simp only [sdecTake, take_data h, List.length_append, List.length_singleton]
  rw [if_neg hb]
  rfl

theorem sdecTake_full {buf : List Byte} {held : Option (List Byte)} {b : Byte} (h : s.inFifo = .data b :: rest)
    (hb : buf.length + 1 = blockBytes s.params.bits c.n) :
    sdecTake c buf held s = sdecBlockTaken c held (buf ++ [b]) { s with inFifo := rest, incnt := s.incnt + 1 } := by
  simp only [sdecTake, take_data h, List.length_append, List.length_singleton]
  rw [if_pos hb]

theorem sdecTake_eof {buf : List Byte} {held : Option (List Byte)} (h : s.inFifo = .eof :: rest) :
    sdecTake c buf held s = sdecEof c buf held { s with inFifo := rest } := by
  simp only [sdecTake, take_eof h]

theorem sdecTake_failed {buf : List Byte} {held : Option (List Byte)}
    (h : s.inFifo = .err :: rest ∨ s.inFifo = .reserved :: rest) :
    sdecTake c buf held s = State.complete .io { s with inFifo := rest } := by
  obtain h | h := h
  · simp only [sdecTake, take_err h]
  · simp only [sdecTake, take_reserved h]

/-- `emitThen` with a byte left to emit goes on with the command. -/
theorem emitThen_cons (work : List Byte → Work) (b : Byte) (out : List Byte) (last : Bool) :
    State.emitThen c work (b :: out) last s = { s with seq := .run c (work (b :: out)) } := by
  simp [State.emitThen, State.continueWith]

/-- `emitThen` with nothing left completes the command when that was the last block. -/
theorem emitThen_nil (work : List Byte → Work) (last : Bool) :
    State.emitThen c work [] last s = if last then s.complete .none else { s with seq := .run c (work []) } := by
  cases last <;> simp [State.emitThen, State.continueWith]

/-- A full OUT FIFO holds the command. -/
theorem emitStep_full (work : List Byte → Work) (b : Byte) (out : List Byte) (last : Bool)
    (h : s.params.outDepth ≤ s.outFifo.length) : emitStep c work b out last s = s := by
  unfold emitStep
  rw [(emit_eq_none_iff b s).2 h]

/-- With room, the byte is emitted. -/
theorem emitStep_room (work : List Byte → Work) (b : Byte) (out : List Byte) (last : Bool)
    (h : s.outFifo.length < s.params.outDepth) :
    emitStep c work b out last s
      = State.emitThen c work out last { s with outFifo := s.outFifo ++ [b], outcnt := s.outcnt + 1 } := by
  unfold emitStep State.emit
  rw [if_pos h]

end

end Sys2Proof.Machine
end

