-- ==== Sys2Proof/Tests/Slice0.lean ====
section
/-! SUPPORT. The author's own tests. Expected values are the spec's: the encodings of 30_encoding.md, the tables of
95_test_vectors.md and the examples in the rules. Then, for every statement with hypotheses, a state and operands that meet
them (names `witness_…`). -/

namespace Sys2Proof.Tests

open Sys2Proof Sys2Proof.Machine

/-! ## Well-formedness: each check refuses a term that is ill-formed in that one way -/

def em8 : Params := { Params.withDefaults .w8 .em with nMax := 4, rMax := 2, lMaxBytes := 8, inDepth := 4, outDepth := 4 }
def ddr8 : Params := { em8 with family := .ddr, p2req := true }
def em32 : Params := { em8 with width := .w32 }
def em64 : Params := { em8 with width := .w64 }

theorem test_params_wellFormed :
    em8.wellFormed = true ∧ ddr8.wellFormed = true ∧ em32.wellFormed = true ∧ em64.wellFormed = true
      ∧ Params.default.wellFormed = true := by decide
theorem test_mix_refused_in_ddr : Instr.mix.wellFormed ddr8 = false ∧ Instr.mix.wellFormed em8 = true := by decide
theorem test_unmix_refused_in_ddr : Instr.unmix.wellFormed ddr8 = false ∧ Instr.unmix.wellFormed em8 = true := by decide
theorem test_nMax_refused :
    Params.wellFormed { em8 with nMax := 1 } = false ∧ Params.wellFormed { em8 with nMax := 257 } = false := by decide
theorem test_rMax_refused :
    Params.wellFormed { em8 with rMax := 0 } = false ∧ Params.wellFormed { em8 with rMax := 65536 } = false := by decide
theorem test_lMax_refused :
    Params.wellFormed { em8 with lMaxBytes := 7 } = false ∧ Params.wellFormed { em8 with lMaxBytes := 65536 } = false
      ∧ Params.wellFormed { em32 with lMaxBytes := 10 } = false := by decide
theorem test_inDepth_refused :
    Params.wellFormed { em8 with inDepth := 0 } = false ∧ Params.wellFormed { em8 with inDepth := 65536 } = false := by
  decide
theorem test_outDepth_refused :
    Params.wellFormed { em8 with outDepth := 0 } = false ∧ Params.wellFormed { em8 with outDepth := 65536 } = false := by
  decide
theorem test_p2req_refused : Params.wellFormed { ddr8 with p2req := false } = false := by decide

/-! ## Decoding: each command's word, written out from R110 and the table of R113 -/

theorem test_decode_nop : decodeTableWord 64 0x0000000000000000 = some .nop := by decide
theorem test_decode_ksched : decodeTableWord 64 0x0000000000000001 = some .ksched := by decide
theorem test_decode_nseed : decodeTableWord 64 0x0000000000000002 = some .nseed := by decide
theorem test_decode_pwchk : decodeTableWord 64 0x0000000000000003 = some .pwchk := by decide
theorem test_decode_pwver : decodeTableWord 64 0x0000000000000004 = some .pwver := by decide
theorem test_decode_mix : decodeTableWord 64 0x0000000000000010 = some .mix := by decide
theorem test_decode_unmix : decodeTableWord 64 0x0000000000000011 = some .unmix := by decide
theorem test_decode_benc : decodeTableWord 64 0x0000000000000012 = some .benc := by decide
theorem test_decode_bdec : decodeTableWord 64 0x0000000000000013 = some .bdec := by decide
theorem test_decode_menc : decodeTableWord 64 0x0000000000000020 = some .menc := by decide
theorem test_decode_mdec : decodeTableWord 64 0x0000000000000021 = some .mdec := by decide
theorem test_decode_ninc : decodeTableWord 64 0x0000000000000022 = some .ninc := by decide
theorem test_decode_senc : decodeTableWord 64 0x0000000000000030 = some .senc := by decide
theorem test_decode_sdec : decodeTableWord 64 0x0000000000000031 = some .sdec := by decide
theorem test_decode_refuses :
    decode em8 0x0000000000000110 = .error .reservedBitsSet ∧ decode em8 0x8000000000000000 = .error .reservedBitsSet
      ∧ decode em8 0x05 = .error .opcodeUnassigned ∧ decode em8 0xFF = .error .opcodeUnassigned
      ∧ decode ddr8 0x10 = .error .notInFamily ∧ decode ddr8 0x11 = .error .notInFamily := by decide

/-- The token examples of R118. -/
theorem test_tokens :
    tokenOfBits 0x074 = .data 0x74 ∧ tokenOfBits 0x100 = .eof ∧ tokenOfBits 0x200 = .err
      ∧ tokenOfBits 0x3FF = .reserved := by decide

/-- Indices of R81, at both ends of each block register (N_MAX = 4). -/
theorem test_register_map :
    regOf em8 0x003 = .status ∧ regOf em8 0x010 = .outpop ∧ regOf em8 0x011 = .unmapped ∧ regOf em8 0x100 = .blk 0
      ∧ regOf em8 0x203 = .nonce 3 ∧ regOf em8 0x304 = .unmapped ∧ regOf em8 0x503 = .pwtag 3
      ∧ regOf em8 0x600 = .unmapped := by decide

/-! ## Commands: one engine step each, on the vectors of 95_test_vectors.md -/

/-- `CFG{ROUNDS=1, NWORDS=2}` (30_encoding.md R122). -/
def cfg1 : Cfg := Cfg.ofBits 0x20001

/-- The command of `work` running in an instance, with tokens queued. -/
def running (p : Params) (work : Work) (toks : List Token) : State :=
  { State.resetOf p with
    cfg := cfg1, seq := .run cfg1 work, inFifo := toks, cmd := encode work.op, lastop := work.op.opcode
    kvalid := needsKey work.op }

/-- What `view` shows of the next state. -/
def after {α : Type} (r : Result) (view : State → α) : Option α :=
  match r with
  | .next t => some (view t)
  | .fault _ => none
  | .refused _ => none

/-- Section 2.1. -/
theorem test_primitives :
    rotl (0x81 : BitVec 8) 1 = 0x03 ∧ rotl (0x81 : BitVec 8) 9 = 0x03 ∧ rotl (0x81 : BitVec 8) 0 = 0x81
      ∧ rotr (0x81 : BitVec 8) 1 = 0xC0 ∧ emF false 0xAA (0xFF : BitVec 8) = 0xD4
      ∧ emF true 0xAA (0x80 : BitVec 8) = 0x6B := by decide

/-- R270's example: `NOP` after reset leaves STATUS = 2. -/
theorem test_nop : after (exec .nop (running em8 .nop [])) statusBits = some 0x2 := by decide

/-- Section 2.2, first row: words above N stay. -/
theorem test_mix :
    after (exec .mix { running em8 .mix [] with blk := [0x01, 0x00, 0x77, 0x66] }) (·.blk)
      = some [0x04, 0xA9, 0x77, 0x66] := by decide
theorem test_unmix :
    after (exec .unmix { running em8 .unmix [] with blk := [0x04, 0xA9, 0x77, 0x66] }) (·.blk)
      = some [0x01, 0x00, 0x77, 0x66] := by decide
theorem test_benc_em :
    after (exec .benc { running em8 .benc [] with key := [0x0F, 0xF0, 0, 0] }) (fun t => t.blk.take 2)
      = some [0x58, 0xBC] := by decide
theorem test_benc_ddr :
    after (exec .benc { running ddr8 .benc [] with sched := [1, 2, 3, 4], blk := [0xFF, 0x07, 0, 0] })
      (fun t => t.blk.take 2) = some [0x85, 0x57] := by decide
theorem test_bdec_em :
    after (exec .bdec { running em8 .bdec [] with key := [0x0F, 0xF0, 0, 0], blk := [0x52, 0xB7, 0, 0] })
      (fun t => t.blk.take 2) = some [0x12, 0x34] := by decide
theorem test_bdec_ddr :
    after (exec .bdec { running ddr8 .bdec [] with sched := [1, 2, 3, 4], blk := [0x03, 0x1F, 0, 0] })
      (fun t => t.blk.take 2) = some [0x00, 0x00] := by decide

/-- Section 2.3: passphrase "k", at EOF. -/
theorem test_ksched_em :
    after (exec .ksched (running em8 (.ksBytes [0, 0] [0x6B] 1) [.eof])) (fun t => (t.key.take 2, t.kvalid))
      = some ([0x76, 0xA2], true) := by decide
theorem test_ksched_ddr :
    after (exec .ksched { running ddr8 (.ksDdr 1 ddrAccInit) [.eof] with lram := [0x6B, 0, 0, 0, 0, 0, 0, 0] })
      (fun t => (t.sched.take 4, t.kvalid)) = some ([0x92, 0x96, 0x59, 0xDC], true) := by decide

/-- Section 2.3's KEYFMT row, and R187: `KEY` is not written, later tokens stay. -/
theorem test_ksched_keyfmt :
    after (exec .ksched
      { running em8 (.ksHex [0, 0] [0x1] 1) [.data 0x10, .eof] with key := [0x11, 0x22, 0x33, 0x44], incnt := 1 })
      (fun t => (statusBits t, t.incnt, t.inFifo, t.key))
      = some (0x0000000000010802, 2, [.eof], [0x11, 0x22, 0x33, 0x44]) := by decide

/-- Section 2.4: "abc" folds byte 2 onto byte 0; here the third byte, then EOF. -/
theorem test_nseed_fold :
    after (exec .nseed (running em8 (.nseed [0x61, 0x62] 2) [.data 0x63, .eof])) (·.seq)
      = some (.run cfg1 (.nseed [0x02, 0x62] 3)) := by decide
theorem test_nseed_eof :
    after (exec .nseed (running em8 (.nseed [0x02, 0x62] 3) [.eof])) (fun t => t.nonce.take 2)
      = some [0x02, 0x62] := by decide

/-- Section 2.3, the `PWC` column: KEY = [0x76, 0xA2]; SCHED of "k". -/
theorem test_pwchk_em :
    after (exec .pwchk { running em8 .pwchk [] with key := [0x76, 0xA2, 0, 0] }) (fun t => t.pwc.take 2)
      = some [0xE3, 0x5E] := by decide
theorem test_pwchk_ddr :
    after (exec .pwchk { running ddr8 .pwchk [] with sched := [0x92, 0x96, 0x59, 0xDC] }) (fun t => t.pwc.take 2)
      = some [0x28, 0x5D] := by decide

/-- R197's example: a tag that differs in its last bit. -/
theorem test_pwver_mismatch :
    after (exec .pwver
      { running em32 .pwver [] with key := [0x0C8C910C, 0x8C37868C, 0, 0], pwtag := [0x13CFA84F, 0, 0, 0] })
      (fun t => (t.err, t.pwc.take 2)) = some (.pwMismatch, [0x13CFA84E, 0xB61B01EB]) := by decide
theorem test_pwver_match :
    after (exec .pwver
      { running em32 .pwver [] with key := [0x0C8C910C, 0x8C37868C, 0, 0], pwtag := [0x13CFA84E, 0, 0, 0] })
      (·.err) = some .none := by decide

/-- R223's example: the nonce carries into word 0. -/
theorem test_menc :
    after (exec .menc
      { running em32 .menc [] with
        key := [0x0C8C910C, 0x8C37868C, 0, 0], nonce := [0, 0xFFFFFFFF, 0, 0], blk := [0x68656C6C, 0x6F800000, 0, 0] })
      (fun t => (t.blk.take 2, t.nonce.take 2, t.blkcnt)) = some ([0xDF57BFF1, 0xE49194A2], [1, 0], 1) := by decide
theorem test_mdec :
    after (exec .mdec
      { running em32 .mdec [] with
        key := [0x0C8C910C, 0x8C37868C, 0, 0], nonce := [0, 0xFFFFFFFF, 0, 0], blk := [0xDF57BFF1, 0xE49194A2, 0, 0] })
      (fun t => (t.blk.take 2, t.nonce.take 2, t.blkcnt)) = some ([0x68656C6C, 0x6F800000], [1, 0], 1) := by decide

/-- Section 2.6: the full wrap, and BLKCNT untouched. -/
theorem test_ninc :
    after (exec .ninc { running em8 .ninc [] with nonce := [0xFF, 0xFF, 0, 0] }) (fun t => (t.nonce.take 2, t.blkcnt))
      = some ([0x00, 0x00], 0) := by decide

/-- Section 3.1: the block `41 80` under "k" is `DC6E`; EOF starts emitting it. -/
theorem test_senc_eof :
    after (exec .senc { running em8 (.senc [0x41] [] false) [.eof] with key := [0x76, 0xA2, 0, 0] })
      (fun t => (t.seq, t.nonce.take 2)) = some (.run cfg1 (.senc [] [0xDC, 0x6E] true), [0, 1]) := by decide
theorem test_senc_emit :
    after (exec .senc (running em8 (.senc [] [0x6E] true) [])) (fun t => (t.outFifo, t.outcnt, t.err, t.done))
      = some ([0x6E], 1, .none, true) := by decide

/-- Section 3.2: `FBAC` without a sentinel loses its last non-zero byte; a partial block is TRUNC. -/
theorem test_sdec_last :
    after (exec .sdec { running em8 (.sdec [] (some [0xFB, 0xAC]) [] false) [.eof] with key := [0x76, 0xA2, 0, 0] })
      (·.seq) = some (.run cfg1 (.sdec [] none [0x41] true)) := by decide
theorem test_sdec_trunc :
    after (exec .sdec (running em8 (.sdec [0x55] (some [0x33, 0x44]) [] false) [.eof])) (fun t => (t.err, t.nonce.take 2))
      = some (.trunc, [0, 0]) := by decide

/-! ## Witnesses: the hypotheses of each statement, met by one state -/

/-- `StepRunsTheDecodedCommand`. -/
theorem witness_step_command :
    let s : State := { State.resetOf em8 with host := [.wr 0x005 0x10], turns := [.host] }
    nextTurn s = .host ∧ s.host = .wr 0x005 0x10 :: [] ∧ s.busy = false ∧ decode s.params 0x10 = .ok .mix := by decide
theorem witness_step_engine :
    nextTurn (running em8 .mix []) = .engine ∧ (running em8 .mix []).seq = .run cfg1 .mix := by decide

theorem witness_step_host_access :
    let s : HostAct → State := fun a => { State.resetOf em8 with host := [a] }
    nextTurn (s (.wr 0x009 7)) = .host ∧ (s (.wr 0x009 7)).host = .wr 0x009 7 :: [] ∧ nextTurn (s (.rd 0x009)) = .host
      ∧ (s (.rd 0x009)).host = .rd 0x009 :: [] ∧ nextTurn (State.resetOf em8) = .host ∧ (State.resetOf em8).host = [] := by
  decide

/-- R125 and R126: `WR BLKCNT, 7` and `RD BLKCNT` as steps of the machine. -/
theorem test_host_access :
    after (step { State.resetOf em8 with host := [.wr 0x009 7] }) (·.blkcnt) = some 7
      ∧ after (step { State.resetOf em8 with host := [.rd 0x009], blkcnt := 7 }) (·.results) = some [.word 0x009 7] := by
  decide

/-- `IllegalWordsCompleteWithCmd`, each of its three kinds of word. -/
theorem witness_illegal_words :
    (State.resetOf ddr8).seq = .idle ∧ cmdRsv 0x100 ≠ 0
      ∧ cmdOp 0x05 ∉ [0x00, 0x01, 0x02, 0x03, 0x04, 0x10, 0x11, 0x12, 0x13, 0x20, 0x21, 0x22, 0x30, 0x31]
      ∧ cmdOp 0x11 ∈ [0x10, 0x11] ∧ (State.resetOf ddr8).params.family = .ddr := by decide

/-- `IssueRunsTheChecksInOrder`, and the statements about accepted and dropped host writes: idle and busy states. -/
theorem witness_idle_and_busy : (State.resetOf em8).busy = false ∧ (running em8 .mix []).busy = true := by decide

/-- Each outcome of `IssueRunsTheChecksInOrder`: CMD before PARAM, PARAM before NOKEY, NOKEY, and a start; the working states
`KSCHED` starts with in the two families. -/
theorem witness_issue_outcomes :
    let idle : State := { State.resetOf em8 with cfg := cfg1 }
    after (exec .mix (State.resetOf ddr8)) (·.err) = some .cmd ∧ after (exec .benc (State.resetOf em8)) (·.err) = some .param
      ∧ after (exec .benc idle) (·.err) = some .noKey ∧ after (exec .mix idle) (·.seq) = some (.run cfg1 .mix)
      ∧ after (exec .ksched idle) (·.seq) = some (.run cfg1 (.ksBytes [0, 0] [] 0))
      ∧ after (exec .ksched { idle with params := ddr8 }) (·.seq) = some (.run cfg1 (.ksDdr 0 ddrAccInit))
      ∧ after (exec .nseed idle) (·.seq) = some (.run cfg1 (.nseed [0, 0] 0)) := by decide

/-- `EmFunctionsAreAffine`, `UnroundUndoesRound`, `DdrStepAndItsInverse`, `DecryptUndoesEncrypt`, `NonceIncAddsOne`, `ModeComposerLockstep` and
`PackIsBigEndianAndUnpackInvertsIt`: Blocks of two words, the least `N`. -/
theorem witness_blocks :
    let x : Block 8 := [0x12, 0x34]
    let c : CipherCtx 8 := State.cipher cfg1 (running em8 .benc [])
    x.length = 2 ∧ 2 ≤ c.n ∧ x.length = c.n ∧ c.key.length = c.n ∧ (pack x).length = 2 * (WordWidth.w8.bits / 8) := by
  decide

/-- The statements about the one engine step of `NOP`, `PWCHK`, `PWVER`, `MIX`, `UNMIX`, `BENC`, `BDEC`, `MENC`, `MDEC` and
`NINC`; the same states are in the invariant. -/
theorem witness_running_commands :
    (∀ work ∈ [Work.nop, .pwchk, .pwver, .mix, .unmix, .benc, .bdec, .menc, .mdec, .ninc],
      (running em8 work []).seq = .run cfg1 work ∧ (running em8 work []).Inv)
      ∧ (∀ work ∈ [Work.nop, .pwchk, .pwver, .benc, .bdec, .menc, .mdec, .ninc], (running ddr8 work []).Inv)
      ∧ 1 ≤ cfg1.n ∧ cfg1.n ≤ (running em8 .mix []).blk.length ∧ cfg1.n ≤ (running em8 .mix []).nonce.length
      ∧ cfg1.n ≤ (running em8 .mix []).pwc.length := by decide

/-- `KschedByteModeSteps` and `EmptyHexPassphraseGivesTheSameKey`. -/
theorem witness_ksBytes :
    let s := running em8 (.ksBytes [0, 0] [0x61] 1)
    let e := running em8 (.ksBytes [0, 0] [] 0) [.eof]
    (s [.data 0x62]).seq = .run cfg1 (.ksBytes [0, 0] [0x61] 1) ∧ (s [.data 0x62]).inFifo = .data 0x62 :: []
      ∧ (s [.eof]).inFifo = .eof :: [] ∧ cfg1.n ≤ (s []).key.length
      ∧ cfgValid e.params cfg1 = true ∧ e.seq = .run cfg1 (.ksBytes [0, 0] [] 0) ∧ e.inFifo = .eof :: [] := by decide

/-- `KschedHexModeSteps`: the greatest nibble and the least bad one. -/
theorem witness_ksHex :
    let s := running em8 (.ksHex [0, 0] [0x1] 1)
    (s []).seq = .run cfg1 (.ksHex [0, 0] [0x1] 1) ∧ cfg1.n ≤ (s []).key.length
      ∧ (s [.data 0x0F]).inFifo = .data 0x0F :: [] ∧ (0x0F : Byte).toNat ≤ 0x0F
      ∧ (s [.data 0x10]).inFifo = .data 0x10 :: [] ∧ 0x0F < (0x10 : Byte).toNat ∧ (s [.eof]).inFifo = .eof :: [] := by
  decide

/-- `KschedDdrSteps`: the last byte that fits (`L_MAX_BYTES` = 8) and the first that does not. -/
theorem witness_ksDdr :
    let s := fun n toks => running ddr8 (.ksDdr n ddrAccInit) toks
    (s 7 []).seq = .run cfg1 (.ksDdr 7 ddrAccInit) ∧ cfg1.t ≤ (s 7 []).sched.length ∧ 7 ≠ (s 7 []).params.lMaxBytes
      ∧ (s 7 [.data 1]).inFifo = .data 1 :: [] ∧ 8 = (s 8 []).params.lMaxBytes ∧ (s 8 [.data 1]).inFifo = .data 1 :: []
      ∧ (s 8 [.eof]).inFifo = .eof :: [] := by decide

/-- `KschedFailureState`: an ERR token during `KSCHED`. -/
theorem witness_ksched_failure :
    let s := running em8 (.ksBytes [0, 0] [] 0) [.err]
    s.seq = .run cfg1 (.ksBytes [0, 0] [] 0) ∧ (Work.ksBytes [0, 0] [] 0).op = .ksched ∧ s.inFifo = .err :: []
      ∧ s.err = .none ∧ after (exec .ksched s) (·.err) = some .io := by decide

/-- `NseedSteps`, and `ErrTokensEndStreamCommandsWithIo` for both kinds of token (its clause on a full OUT FIFO is met by
`witness_emit`). -/
theorem witness_nseed :
    let s := running em8 (.nseed [0, 0] 0)
    (s []).seq = .run cfg1 (.nseed [0, 0] 0) ∧ cfg1.n ≤ (s []).nonce.length ∧ (s [.data 1]).inFifo = .data 1 :: []
      ∧ (s [.eof]).inFifo = .eof :: [] ∧ (s [.err]).inFifo = .err :: [] ∧ (s [.reserved]).inFifo = .reserved :: []
      ∧ (Work.nseed [0, 0] 0).op ∈ [Instr.ksched, .nseed, .senc, .sdec] ∧ (Work.nseed [0, 0] 0).atEmit = false := by
  decide

/-- `LastNonZeroFindsTheLast`: a block with a non-zero byte, and one without. -/
theorem witness_lastNonZero :
    ([0x41, 0x80, 0] : List Byte).getD 1 0 ≠ 0 ∧ lastNonZero [0x41, 0x80, 0] = 1
      ∧ lastNonZero ([0, 0] : List Byte) = 0 := by decide

/-- `SencTakeSteps`: a byte below a full block, the byte that fills it, EOF and both error tokens. -/
theorem witness_senc_take :
    let s := fun buf toks => running em8 (.senc buf [] false) toks
    (s [] []).seq = .run cfg1 (.senc [] [] false) ∧ 1 ≤ cfg1.n
      ∧ ([] : List Byte).length + 1 ≠ blockBytes (s [] []).params.bits cfg1.n
      ∧ ([0x41] : List Byte).length + 1 = blockBytes (s [] []).params.bits cfg1.n
      ∧ (s [] [.data 0x41]).inFifo = .data 0x41 :: [] ∧ (s [] [.eof]).inFifo = .eof :: []
      ∧ (s [] [.err]).inFifo = .err :: [] ∧ (s [] [.reserved]).inFifo = .reserved :: [] := by decide

/-- `SdecTakeSteps`. -/
theorem witness_sdec_take :
    let s := fun buf held toks => running em8 (.sdec buf held [] false) toks
    (s [] none []).seq = .run cfg1 (.sdec [] none [] false)
      ∧ (s [1] (some [2, 3]) [.data 4]).inFifo = .data 4 :: [] ∧ (s [] (some [2, 3]) [.eof]).inFifo = .eof :: []
      ∧ (s [1] none [.err]).inFifo = .err :: [] ∧ (s [1] none [.reserved]).inFifo = .reserved :: []
      ∧ (s [1] (some [2, 3]) [.eof]).inFifo = .eof :: [] ∧ after (exec .sdec (s [1] (some [2, 3]) [.eof])) (·.err) = some .trunc
      ∧ after (exec .sdec (s [] none [.eof])) (·.err) = some .trunc := by decide

/-- `EmitSteps`: with one place left in the OUT FIFO, and with none. -/
theorem witness_emit :
    let s := fun out => { running em8 (.senc [] [0x41] true) [] with outFifo := out }
    let d := running em8 (.sdec [] none [0x41] true) []
    (s []).seq = .run cfg1 (.senc [] (0x41 :: []) true) ∧ d.seq = .run cfg1 (.sdec [] none (0x41 :: []) true)
      ∧ (Work.senc [] [0x41] true).atEmit = true ∧ (s [1, 2, 3]).outFifo.length < (s []).params.outDepth
      ∧ (s []).params.outDepth ≤ (s [1, 2, 3, 4]).outFifo.length := by
  decide

/-- `SencOutputCount` and `SdecOfSencIsThePlaintext`: the plaintext `41 00`, exactly one block. -/
theorem witness_stream :
    let s := running em8 (.senc [] [] false) ([0x41, 0x00].map Token.data ++ Token.eof :: [])
    cfgValid s.params cfg1 = true ∧ cfg1.n ≤ s.nonce.length ∧ s.seq = .run cfg1 (.senc [] [] false) ∧ s.outFifo = []
      ∧ s.outFifo.length + blockBytes s.params.bits cfg1.n * (2 / blockBytes s.params.bits cfg1.n + 1) ≤ s.params.outDepth := by
  decide

/-- `HoldingChangesNothing`: holding at a take, at an emit, and not holding; an idle engine given a turn; an interleaving
still to come, and none with and without an enabled engine step. -/
theorem witness_holding :
    engineEnabled (running em8 (.nseed [0, 0] 0) []) = false
      ∧ engineEnabled { running em8 (.senc [] [1] true) [] with outFifo := [1, 2, 3, 4] } = false
      ∧ engineEnabled (running em8 (.nseed [0, 0] 0) [.eof]) = true
      ∧ (State.resetOf em8).seq = .idle ∧ nextTurn { State.resetOf em8 with turns := [.engine] } = .engine
      ∧ (State.resetOf em8).turns = [] ∧ engineEnabled (State.resetOf em8) = false
      ∧ (running em8 (.nseed [0, 0] 0) [.eof]).turns = [] := by decide

/-- `CommandsTerminate`. -/
theorem witness_terminate :
    (Work.nop).op ∉ [Instr.ksched, .nseed, .senc, .sdec] ∧ (Work.nseed [0, 0] 0).op = .nseed
      ∧ (∃ tok ∈ (running em8 (.nseed [0, 0] 0) [.data 1, .eof]).inFifo, isData tok = false) := by decide

/-- `UnmappedIndicesReadZero`: the ends of its three ranges (N_MAX = 4). -/
theorem witness_unmapped :
    regOf em8 0x011 = .unmapped ∧ regOf em8 0x0FF = .unmapped ∧ regOf em8 0x600 = .unmapped ∧ regOf em8 0xFFF = .unmapped
      ∧ regOf em8 0x104 = .unmapped ∧ regOf em8 0x5FF = .unmapped ∧ regOf em8 0x010 ≠ .unmapped
      ∧ regOf em8 0x100 ≠ .unmapped ∧ regOf em8 0x503 ≠ .unmapped := by decide

/-- `AcceptedBlockWrites`: the first and the last word. -/
theorem witness_block_writes :
    (State.resetOf em8).busy = false ∧ (State.resetOf em8).regsWf = true ∧ 0 < (State.resetOf em8).params.nMax
      ∧ 3 < (State.resetOf em8).params.nMax := by decide

/-- `WritesWhileBusyKeepOperands`: a dropped write, an ignored one and a soft reset while a command runs. -/
theorem witness_busy_writes :
    let s := running em8 .mix []
    s.busy = true ∧ after (s.writeReg .cfg 0) (·.wdrop) = some true
      ∧ after (s.writeReg (.pwc 0) 1) (·.wdrop) = some false ∧ after (s.writeReg .ctrl 2) (·.seq) = some .idle := by
  decide

/-- `CtrlWriteActions`: with and without SRST. -/
theorem witness_ctrl : (0x2 : Reg).getLsbD 1 = true ∧ (0xD : Reg).getLsbD 1 = false := by decide

/-- `FifoPortsPushAndPop`: room and none in the IN FIFO, a byte and none in the OUT FIFO. -/
theorem witness_fifo_ports :
    (running em8 .nop [.eof, .eof, .eof]).inFifo.length < em8.inDepth
      ∧ ¬ (running em8 .nop [.eof, .eof, .eof, .eof]).inFifo.length < em8.inDepth
      ∧ (State.resetOf em8).outFifo = [] := by decide

/-- `FifostatAndCountReads`: an IN FIFO with a token in it. -/
theorem witness_fifo_levels :
    (running em8 .nop [.eof]).inFifo.length < 2 ^ 16 ∧ (running em8 .nop [.eof]).outFifo.length < 2 ^ 16 := by decide

/-- `TokenFormat`: a token of each kind. -/
theorem witness_token_kinds :
    (0x0FF : BitVec 10).extractLsb' 8 2 = 0b00 ∧ (0x1FF : BitVec 10).extractLsb' 8 2 = 0b01
      ∧ (0x200 : BitVec 10).extractLsb' 8 2 = 0b10 ∧ (0x300 : BitVec 10).extractLsb' 8 2 = 0b11 := by decide

/-- `KeyReadsAreGatedByKvalid`: the last word of the schedule (t = 4) and the first index past it. -/
theorem witness_key_reads :
    let s : State := { State.resetOf ddr8 with kvalid := true, cfg := cfg1 }
    s.params.family = .ddr ∧ s.kvalid = true ∧ (3 : BitVec 32).toNat < s.cfg.rounds.toNat * s.cfg.nwords.toNat + 2
      ∧ s.cfg.rounds.toNat * s.cfg.nwords.toNat + 2 ≤ (4 : BitVec 32).toNat ∧ (State.resetOf em8).params.family = .em
      ∧ (State.resetOf em8).kvalid = false := by decide

/-- `OtherReadsHaveNoSideEffect` and `StableReadsWhileBusy`: words the running `MENC` writes and does not write, and an idle
engine. -/
theorem witness_stable_reads :
    let s := running em8 .menc []
    s.seq = .run cfg1 .menc ∧ Work.menc.op ∉ [Instr.pwchk, .pwver] ∧ cfg1.n ≤ 2 ∧ RegName.blk 2 ≠ .outpop
      ∧ (State.resetOf em8).busy = false
      ∧ Work.ninc.op ∉ [Instr.mix, .unmix, .benc, .bdec, .menc, .mdec]
      ∧ Work.benc.op ∉ [Instr.menc, .mdec, .senc, .sdec] ∧ (Work.ksBytes [0, 0] [] 0).op = .ksched
      ∧ (running em8 (.ksBytes [0, 0] [] 0) []).Inv := by decide

/-- `PollAndDrainRepeatTheirRead`. -/
theorem witness_poll_and_drain :
    let s : State := { State.resetOf em8 with host := [wait] }
    let d : Nat → State := fun n => { State.resetOf em8 with host := [drain n], outFifo := [7] }
    nextTurn s = .host ∧ s.host = .poll 0x003 0x2 0x2 :: [] ∧ nextTurn (d 2) = .host
      ∧ (d 0).host = .drain 0 [] :: [] ∧ (d 1).host = .drain (0 + 1) [] :: [] ∧ (d 2).host = .drain (1 + 1) [] :: []
      ∧ (d 2).outFifo = 7 :: [] ∧ s.outFifo = [] := by decide

/-- R130: a byte is collected, a read that returns 0 is discarded, and the last byte ends the action. -/
theorem test_drain_collects :
    let d : HostAct → List Byte → State := fun a out => { State.resetOf em8 with host := [a], outFifo := out }
    after (step (d (drain 2) [0x7E])) (fun t => (t.host, t.results)) = some ([.drain 1 [0x7E]], [])
      ∧ after (step (d (.drain 1 [0x7E]) [])) (fun t => (t.host, t.results)) = some ([.drain 1 [0x7E]], [])
      ∧ after (step (d (.drain 1 [0x7E]) [0x92, 0xC6])) (fun t => (t.host, t.results, t.outFifo))
        = some ([], [.bytes [0x7E, 0x92]], [0xC6]) := by decide

/-- `KvalidChangesOnlyByItsEvents`: one step that sets `KVALID`, one that clears it. -/
theorem witness_kvalid :
    let s := running em8 (.ksBytes [0, 0] [] 0) [.eof]
    let d : State := { State.resetOf em8 with kvalid := true, host := [.wr 0x004 0x20001] }
    s.kvalid = false ∧ after (step s) (·.kvalid) = some true ∧ d.kvalid = true ∧ after (step d) (·.kvalid) = some false := by
  decide

/-- `ParametersAndStickyFlags`: one step that clears both flags. -/
theorem witness_sticky_flags :
    let s : State := { State.resetOf em8 with wdrop := true, inovf := true, host := [.wr 0x003 0x18] }
    s.wdrop = true ∧ s.inovf = true ∧ nextTurn s = .host ∧ after (step s) (fun t => (t.wdrop, t.inovf)) = some (false, false) := by decide

/-- `EveryStepKeepsTheInvariant` and `InverseCommandsRestoreBlk`: states in the invariant whose step answers a next state. -/
theorem witness_invariant :
    (running em8 .benc []).Inv ∧ (after (step (running em8 .benc [])) (·.done)) = some true
      ∧ (running em8 (.sdec [0x55] (some [0x33, 0x44]) [] false) [.eof]).Inv
      ∧ (running em8 (.senc [] [1, 2] true) []).Inv ∧ (running ddr8 (.ksDdr 8 ddrAccInit) []).Inv := by decide

/-- A word of the opcode table, placed by `withFetchWord`, is issued by the next step and runs in the one after it. -/
theorem test_withFetchWord :
    let s := ({ State.resetOf em8 with cfg := cfg1, blk := [0x01, 0x00, 0, 0] } : State).withFetchWord 64 0x10
    after (step s) (·.seq) = some (.run cfg1 .mix)
      ∧ (after (step s) (fun t => after (step t) (fun u => u.blk.take 2))) = some (some [0x04, 0xA9]) := by decide

end Sys2Proof.Tests
end

/-! PROOFS. The record of an engine: its build parameters and the sticky flags `WDROP` and `INOVF` (10_state.md R34). One
relation says that a step keeps the record but for named events; each operation of the model has one lemma about it, and
the step lemma composes them. -/

namespace Sys2Proof.Machine

/-! ### The relation -/

/-- From `s` to `t` the build parameters stay, `WDROP` is cleared only if `cw` and `INOVF` only if `ci`. -/
structure KeepsRecord (cw ci : Prop) (s t : State) : Prop where
  params : t.params = s.params
  wdrop : s.wdrop = true → t.wdrop = false → cw
  inovf : s.inovf = true → t.inovf = false → ci

section
variable {cw ci : Prop} {s t u : State}

/-- A step that leaves the three fields alone. -/
theorem KeepsRecord.of_eq (hp : t.params = s.params) (hw : t.wdrop = s.wdrop) (hi : t.inovf = s.inovf) :
    KeepsRecord cw ci s t :=
  ⟨hp, by simp +contextual [hw], by simp +contextual [hi]⟩

theorem KeepsRecord.refl (s : State) : KeepsRecord cw ci s s := .of_eq rfl rfl rfl

theorem KeepsRecord.trans (hst : KeepsRecord cw ci s t) (htu : KeepsRecord cw ci t u) : KeepsRecord cw ci s u where
  params := htu.params.trans hst.params
  wdrop hs hu := by
    cases ht : t.wdrop with
    | false => exact hst.wdrop hs ht
    | true => exact htu.wdrop ht hu
  inovf hs hu := by
    cases ht : t.inovf with
    | false => exact hst.inovf hs ht
    | true => exact htu.inovf ht hu

/-- A step that starts by changing other fields only. -/
theorem KeepsRecord.of_eq_left (htu : KeepsRecord cw ci t u) (hp : t.params = s.params) (hw : t.wdrop = s.wdrop)
    (hi : t.inovf = s.inovf) : KeepsRecord cw ci s u := .trans (.of_eq hp hw hi) htu

theorem KeepsRecord.mono {cw' ci' : Prop} (h : KeepsRecord cw ci s t) (hw : cw → cw') (hi : ci → ci') :
    KeepsRecord cw' ci' s t :=
  ⟨h.params, fun hs ht => hw (h.wdrop hs ht), fun hs ht => hi (h.inovf hs ht)⟩

end

/-! ### The shared operations -/

section
variable {cw ci : Prop} {s t : State} {c : Cfg}

/-- A dropped write sets `WDROP` (44_control.md R278). -/
theorem dropWrite_keepsRecord (s : State) : KeepsRecord cw ci s s.dropWrite :=
  ⟨rfl, by simp, by simp +contextual⟩

theorem guarded_keepsRecord {f : State → State} (hf : KeepsRecord cw ci s (f s)) :
    KeepsRecord cw ci s (s.guarded f) := by
  cases hb : s.busy with
  | true => exact guarded_busy hb f ▸ dropWrite_keepsRecord s
  | false => exact guarded_idle hb f ▸ hf

theorem issue_keepsRecord (i : Instr) (s : State) : KeepsRecord cw ci s (s.issue i) := by
  obtain ⟨-, h⟩ | ⟨-, h⟩ := issue_cases i s <;> exact h ▸ .of_eq rfl rfl rfl

theorem emitThen_keepsRecord (work : List Byte → Work) (out : List Byte) (last : Bool) (s : State) :
    KeepsRecord cw ci s (s.emitThen c work out last) := by
  unfold State.emitThen
  split
  · exact .of_eq (State.complete_params ..) (State.complete_wdrop ..) (State.complete_inovf ..)
  · exact .of_eq (State.continueWith_params ..) (State.continueWith_wdrop ..) (State.continueWith_inovf ..)

theorem emitStep_keepsRecord (work : List Byte → Work) (b : Byte) (out : List Byte) (last : Bool) (s : State) :
    KeepsRecord cw ci s (emitStep c work b out last s) := by
  by_cases h : s.outFifo.length < s.params.outDepth
  · rw [emitStep_room work b out last h]
    exact (emitThen_keepsRecord ..).of_eq_left rfl rfl rfl
  · rw [emitStep_full work b out last (by omega)]
    exact .refl s

/-! ### The engine steps of the commands that read the IN stream -/

/-- What the IN FIFO can show a command at `take()`; ERR and reserved tokens are treated alike (30_encoding.md R119). -/
theorem inFifo_cases (s : State) :
    s.inFifo = [] ∨ (∃ b rest, s.inFifo = .data b :: rest) ∨ (∃ rest, s.inFifo = .eof :: rest)
      ∨ ∃ rest, s.inFifo = .err :: rest ∨ s.inFifo = .reserved :: rest := by
  match s.inFifo with
  | [] => simp
  | .data _ :: _ => simp
  | .eof :: _ => simp
  | .err :: _ => simp
  | .reserved :: _ => simp

theorem ksBytesStep_keepsRecord (k : List Reg) (buf : List Byte) (total : Nat) (s : State) :
    KeepsRecord cw ci s (ksBytesStep c k buf total s) := by
  obtain h | ⟨b, rest, h⟩ | ⟨rest, h⟩ | ⟨rest, h⟩ := inFifo_cases s
  · rw [ksBytesStep_empty h]; exact .refl s
  · exact ksBytesStep_data h ▸ .of_eq rfl rfl rfl
  · exact ksBytesStep_eof h ▸ .of_eq rfl rfl rfl
  · exact ksBytesStep_failed h ▸ .of_eq rfl rfl rfl

theorem ksHexStep_keepsRecord (k : List Reg) (nibs : List (BitVec 4)) (total : Nat) (s : State) :
    KeepsRecord cw ci s (ksHexStep c k nibs total s) := by
  obtain h | ⟨b, rest, h⟩ | ⟨rest, h⟩ | ⟨rest, h⟩ := inFifo_cases s
  · rw [ksHexStep_empty h]; exact .refl s
  · by_cases hb : b.toNat ≤ 0x0F
    · exact ksHexStep_data h hb ▸ .of_eq rfl rfl rfl
    · exact ksHexStep_badNibble h (by omega) ▸ .of_eq rfl rfl rfl
  · exact ksHexStep_eof h ▸ .of_eq rfl rfl rfl
  · exact ksHexStep_failed h ▸ .of_eq rfl rfl rfl

theorem ksDdrStep_keepsRecord (n : Nat) (acc : DdrAcc) (s : State) :
    KeepsRecord cw ci s (ksDdrStep c n acc s) := by
  obtain h | ⟨b, rest, h⟩ | ⟨rest, h⟩ | ⟨rest, h⟩ := inFifo_cases s
  · rw [ksDdrStep_empty h]; exact .refl s
  · by_cases hn : n = s.params.lMaxBytes
    · exact ksDdrStep_tooLong h hn ▸ .of_eq rfl rfl rfl
    · exact ksDdrStep_data h hn ▸ .of_eq rfl rfl rfl
  · exact ksDdrStep_eof h ▸ .of_eq rfl rfl rfl
  · exact ksDdrStep_failed h ▸ .of_eq rfl rfl rfl

theorem nseedStep_keepsRecord (buf : List Byte) (k : Nat) (s : State) :
    KeepsRecord cw ci s (nseedStep c buf k s) := by
  obtain h | ⟨b, rest, h⟩ | ⟨rest, h⟩ | ⟨rest, h⟩ := inFifo_cases s
  · rw [nseedStep_empty h]; exact .refl s
  · exact nseedStep_data h ▸ .of_eq rfl rfl rfl
  · exact nseedStep_eof h ▸ .of_eq rfl rfl rfl
  · exact nseedStep_failed h ▸ .of_eq rfl rfl rfl

theorem sencTake_keepsRecord (buf : List Byte) (s : State) : KeepsRecord cw ci s (sencTake c buf s) := by
  obtain h | ⟨b, rest, h⟩ | ⟨rest, h⟩ | ⟨rest, h⟩ := inFifo_cases s
  · rw [sencTake_empty h]; exact .refl s
  · by_cases hb : buf.length + 1 = blockBytes s.params.bits c.n
    · exact sencTake_full h hb ▸ (emitThen_keepsRecord ..).of_eq_left rfl rfl rfl
    · exact sencTake_partial h hb ▸ .of_eq rfl rfl rfl
  · exact sencTake_eof h ▸ (emitThen_keepsRecord ..).of_eq_left rfl rfl rfl
  · exact sencTake_failed h ▸ .of_eq rfl rfl rfl

theorem sdecBlockTaken_keepsRecord (held : Option (List Byte)) (blk : List Byte) (s : State) :
    KeepsRecord cw ci s (sdecBlockTaken c held blk s) := by
  cases held with
  | none => exact .of_eq rfl rfl rfl
  | some h =>
    simp only [sdecBlockTaken]
    exact (emitThen_keepsRecord ..).of_eq_left rfl rfl rfl

theorem sdecEof_keepsRecord (buf : List Byte) (held : Option (List Byte)) (s : State) :
    KeepsRecord cw ci s (sdecEof c buf held s) := by
  cases held with
  | none => exact .of_eq rfl rfl rfl
  | some h =>
    simp only [sdecEof]
    split
    · exact .of_eq rfl rfl rfl
    · exact (emitThen_keepsRecord ..).of_eq_left rfl rfl rfl

theorem sdecTake_keepsRecord (buf : List Byte) (held : Option (List Byte)) (s : State) :
    KeepsRecord cw ci s (sdecTake c buf held s) := by
  obtain h | ⟨b, rest, h⟩ | ⟨rest, h⟩ | ⟨rest, h⟩ := inFifo_cases s
  · rw [sdecTake_empty h]; exact .refl s
  · by_cases hb : buf.length + 1 = blockBytes s.params.bits c.n
    · exact sdecTake_full h hb ▸ (sdecBlockTaken_keepsRecord ..).of_eq_left rfl rfl rfl
    · exact sdecTake_partial h hb ▸ .of_eq rfl rfl rfl
  · exact sdecTake_eof h ▸ (sdecEof_keepsRecord ..).of_eq_left rfl rfl rfl
  · exact sdecTake_failed h ▸ .of_eq rfl rfl rfl

/-! ### Every command, and the sequencer's turn -/

/-- The engine step of the running command. -/
theorem exec_run_keepsRecord {work : Work} (hs : s.seq = .run c work) (h : exec work.op s = .next t) :
    KeepsRecord cw ci s t := by
  cases work with
  | nop => cases (exec_nop_run hs).symm.trans h; exact .of_eq rfl rfl rfl
  | ksBytes => cases (exec_ksBytes_run hs).symm.trans h; exact ksBytesStep_keepsRecord ..
  | ksHex => cases (exec_ksHex_run hs).symm.trans h; exact ksHexStep_keepsRecord ..
  | ksDdr => cases (exec_ksDdr_run hs).symm.trans h; exact ksDdrStep_keepsRecord ..
  | nseed => cases (exec_nseed_run hs).symm.trans h; exact nseedStep_keepsRecord ..
  | pwchk => cases (exec_pwchk_run hs).symm.trans h; exact .of_eq rfl rfl rfl
  | pwver => cases (exec_pwver_run hs).symm.trans h; exact .of_eq rfl rfl rfl
  | mix => cases (exec_mix_run hs).symm.trans h; exact .of_eq rfl rfl rfl
  | unmix => cases (exec_unmix_run hs).symm.trans h; exact .of_eq rfl rfl rfl
  | benc => cases (exec_benc_run hs).symm.trans h; exact .of_eq rfl rfl rfl
  | bdec => cases (exec_bdec_run hs).symm.trans h; exact .of_eq rfl rfl rfl
  | menc => cases (exec_menc_run hs).symm.trans h; exact .of_eq rfl rfl rfl
  | mdec => cases (exec_mdec_run hs).symm.trans h; exact .of_eq rfl rfl rfl
  | ninc => cases (exec_ninc_run hs).symm.trans h; exact .of_eq rfl rfl rfl
  | senc buf out last =>
    cases out with
    | nil => cases (exec_senc_take hs).symm.trans h; exact sencTake_keepsRecord ..
    | cons b out => cases (exec_senc_emit hs).symm.trans h; exact emitStep_keepsRecord ..
  | sdec buf held out last =>
    cases out with
    | nil => cases (exec_sdec_take hs).symm.trans h; exact sdecTake_keepsRecord ..
    | cons b out => cases (exec_sdec_emit hs).symm.trans h; exact emitStep_keepsRecord ..

theorem engineTurn_keepsRecord (h : engineTurn s = .next t) : KeepsRecord cw ci s t := by
  cases hs : s.seq with
  | idle => cases (engineTurn_idle hs).symm.trans h; exact .refl s
  | run c work => exact exec_run_keepsRecord hs ((engineTurn_run hs).symm.trans h)

/-! ### The host's reads -/

theorem readWord_keepsRecord (writes : Instr → Bool) (regs : List Reg) (j : Nat) (s : State) :
    KeepsRecord cw ci s (s.readWord writes regs j).2 := by
  unfold State.readWord
  split
  · exact .of_eq rfl rfl rfl
  · exact .refl s

theorem popOut_keepsRecord (s : State) : KeepsRecord cw ci s s.popOut.2 := by
  unfold State.popOut
  split <;> exact .of_eq rfl rfl rfl

/-- A read removes a byte of the OUT FIFO or draws a free value (20_memory.md R87, log 4), and no more. -/
theorem readReg_keepsRecord (r : RegName) (s : State) : KeepsRecord cw ci s (s.readReg r).2 := by
  cases r with
  | blkcnt =>
    simp only [State.readReg]
    split
    · exact .of_eq rfl rfl rfl
    · exact .refl s
  | outpop => exact popOut_keepsRecord s
  | blk | nonce | pwc => exact readWord_keepsRecord ..
  | _ => exact .refl s

theorem hostRead_keepsRecord (idx : BitVec 12) (s : State) : KeepsRecord cw ci s (s.hostRead idx).2 :=
  .trans (readReg_keepsRecord ..) (.of_eq rfl rfl rfl)

theorem pollOnce_keepsRecord (idx : BitVec 12) (mask value : Reg) (rest : List HostAct) (s : State) :
    KeepsRecord cw ci s (s.pollOnce idx mask value rest) :=
  .trans (hostRead_keepsRecord idx s) (.of_eq rfl rfl rfl)

theorem drainOnce_keepsRecord (n : Nat) (got : List Byte) (rest : List HostAct) (s : State) :
    KeepsRecord cw ci s (s.drainOnce n got rest) := by
  match n, hout : s.outFifo with
  | 0, _ => exact .of_eq rfl rfl rfl
  | k + 1, [] => exact drainOnce_empty hout .. ▸ .of_eq rfl rfl rfl
  | 1, b :: out => exact drainOnce_last hout .. ▸ .of_eq rfl rfl rfl
  | k + 2, b :: out => exact drainOnce_byte hout .. ▸ .of_eq rfl rfl rfl

/-! ### The host's writes -/

/-- A reset clears both flags, so it must be among the named events (70_reset_and_hazards.md R320, R321). -/
theorem resetEngine_keepsRecord (hw : cw) (hi : ci) (s : State) : KeepsRecord cw ci s s.resetEngine :=
  ⟨rfl, fun _ _ => hw, fun _ _ => hi⟩

/-- `CTRL` clears a flag only through SRST (44_control.md R273 to R277). -/
theorem writeCtrl_keepsRecord (v : Reg) (hw : v.getLsbD 1 = true → cw) (hi : v.getLsbD 1 = true → ci) (s : State) :
    KeepsRecord cw ci s (s.writeCtrl v) := by
  have flushIn (s : State) : KeepsRecord cw ci s (s.guarded State.flushIn) :=
    guarded_keepsRecord (.of_eq rfl rfl rfl)
  have flushOut (s : State) : KeepsRecord cw ci s (s.guarded State.flushOut) :=
    guarded_keepsRecord (.of_eq rfl rfl rfl)
  have setIe : KeepsRecord cw ci s { s with ie := v.getLsbD 0 } := .of_eq rfl rfl rfl
  unfold State.writeCtrl
  split
  case isTrue hsrst => exact resetEngine_keepsRecord (hw hsrst) (hi hsrst) s
  case isFalse =>
    dsimp only
    split <;> split
    · exact (setIe.trans (flushIn _)).trans (flushOut _)
    · exact setIe.trans (flushOut _)
    · exact setIe.trans (flushIn _)
    · exact setIe

/-- `STATUS` clears the flags whose bit is written as 1 (R34). -/
theorem writeStatus_keepsRecord (v : Reg) (hw : v.getLsbD 3 = true → cw) (hi : v.getLsbD 4 = true → ci) (s : State) :
    KeepsRecord cw ci s (s.writeStatus v) where
  params := State.writeStatus_params v s
  wdrop hs ht := hw (by simpa [hs] using ht)
  inovf hs ht := hi (by simpa [hs] using ht)

/-- `INPUSH` appends a token or sets `INOVF` (R48). -/
theorem pushIn_keepsRecord (v : Reg) (s : State) : KeepsRecord cw ci s (s.pushIn v) := by
  unfold State.pushIn
  split
  · exact .of_eq rfl rfl rfl
  · exact ⟨rfl, by simp +contextual, by simp⟩

theorem writeCmd_keepsRecord {v : Reg} (h : s.writeCmd v = .next t) : KeepsRecord cw ci s t := by
  unfold State.writeCmd at h
  split at h
  case isTrue => cases h; exact dropWrite_keepsRecord s
  case isFalse hb =>
    have hidle : s.seq = .idle := (busy_eq_false_iff s).1 (by simpa using hb)
    split at h
    · cases (exec_idle _ hidle).symm.trans h; exact issue_keepsRecord ..
    · cases h; exact .of_eq rfl rfl rfl

end

/-- The write of `v` to register `r` clears the flag at bit `flag` of `STATUS`: by a 1 in that bit (R34), or by SRST. -/
def WriteClears (flag : Nat) (r : RegName) (v : Reg) : Prop :=
  (r = .status ∧ v.getLsbD flag = true) ∨ (r = .ctrl ∧ v.getLsbD 1 = true)

theorem writeReg_keepsRecord {r : RegName} {v : Reg} {s t : State} (h : s.writeReg r v = .next t) :
    KeepsRecord (WriteClears 3 r v) (WriteClears 4 r v) s t := by
  cases r with
  | ctrl => cases h; exact writeCtrl_keepsRecord v (fun hv => .inr ⟨rfl, hv⟩) (fun hv => .inr ⟨rfl, hv⟩) s
  | status => cases h; exact writeStatus_keepsRecord v (fun hv => .inl ⟨rfl, hv⟩) (fun hv => .inl ⟨rfl, hv⟩) s
  | cmd => exact writeCmd_keepsRecord h
  | inpush => cases h; exact pushIn_keepsRecord v s
  | cfg | ema | kp | kq | blkcnt | sidx | blk | nonce | pwtag =>
    cases h; exact guarded_keepsRecord (.of_eq rfl rfl rfl)
  | _ => cases h; exact .refl s

/-! ### A step of the machine -/

/-- The host's next access is a write that clears the flag. -/
def HostClears (flag : Nat) (s : State) : Prop :=
  ∃ idx v rest, s.host = .wr idx v :: rest ∧ WriteClears flag (regOf s.params idx) v

theorem hostTurn_keepsRecord {s t : State} (h : hostTurn s = .next t) :
    KeepsRecord (HostClears 3 s) (HostClears 4 s) s t := by
  unfold hostTurn at h
  split at h
  case h_1 => cases h; exact .refl s
  case h_2 idx v rest hhost =>
    have hclears (flag : Nat) (hw : WriteClears flag (regOf s.params idx) v) : HostClears flag s :=
      ⟨idx, v, rest, hhost, hw⟩
    exact ((writeReg_keepsRecord h).mono (hclears 3) (hclears 4)).of_eq_left rfl rfl rfl
  case h_3 => cases h; exact (hostRead_keepsRecord ..).of_eq_left rfl rfl rfl
  case h_4 => cases h; exact pollOnce_keepsRecord ..
  case h_5 => cases h; exact drainOnce_keepsRecord ..

/-- The step about to be taken clears the flag at bit `flag` of `STATUS`: a turn of the reset input, or the host's write. -/
def StepClears (flag : Nat) (s : State) : Prop :=
  nextTurn s = .resetInput ∨ (nextTurn s = .host ∧ HostClears flag s)

theorem step_keepsRecord {s t : State} (h : step s = .next t) :
    KeepsRecord (StepClears 3 s) (StepClears 4 s) s t := by
  have hpop : KeepsRecord (StepClears 3 s) (StepClears 4 s) s s.popTurn := .of_eq rfl rfl rfl
  obtain ⟨hturn, hhost⟩ | ⟨-, hengine⟩ | ⟨hturn, rfl⟩ := step_cases h
  · exact hpop.trans ((hostTurn_keepsRecord hhost).mono (fun hc => .inr ⟨hturn, hc⟩) (fun hc => .inr ⟨hturn, hc⟩))
  · exact hpop.trans (engineTurn_keepsRecord hengine)
  · exact hpop.trans (resetEngine_keepsRecord (.inl hturn) (.inl hturn) _)

/-- Settles O60: every turn keeps the record but for a reset and the host's clearing writes. -/
theorem parametersAndStickyFlags : Obligations.ParametersAndStickyFlags := by
  intro s t h
  obtain ⟨hparams, hwdrop, hinovf⟩ := step_keepsRecord h
  exact ⟨hparams, hwdrop, hinovf⟩

end Sys2Proof.Machine

/-! PROOFS. The invariant of the machine's states (10_state.md sections 8 and 9): it holds after reset, and every turn of
every agent keeps it. It is taken apart once, into the registers, FIFOs and flags (`State.DataWf`) and the running command
(`State.RunWf`); each operation of the model has one lemma about it, and the step lemma composes them. -/

namespace Sys2Proof.Machine

/-! ### The parts of the invariant -/

/-- What the invariant says of a state apart from its sequencer, field by field. -/
structure State.DataWf (s : State) : Prop where
  params : s.params.wellFormed = true
  ema : s.ema.toNat < 2 ^ s.params.bits
  kp : s.kp.toNat < 2 ^ s.params.bits
  kq : s.kq.toNat < 2 ^ s.params.bits
  blk : BlockRegWf s.params s.blk
  nonce : BlockRegWf s.params s.nonce
  key : BlockRegWf s.params s.key
  pwc : BlockRegWf s.params s.pwc
  pwtag : BlockRegWf s.params s.pwtag
  schedSize : s.sched.length = schedSize s.params
  schedFit : WordsFit s.params.bits s.sched
  lram : s.lram.length = lramSize s.params
  inFifo : s.inFifo.length ≤ s.params.inDepth
  outFifo : s.outFifo.length ≤ s.params.outDepth
  lastop : s.lastop = cmdOp s.cmd
  keyed : s.kvalid = true → cfgValid s.params s.cfg = true

theorem dataWf_iff (s : State) :
    s.DataWf ↔ s.params.wellFormed = true ∧ s.regsWf = true ∧ s.fifosWf = true ∧ s.flagsWf = true := by
  have hconst : WordsFit s.params.bits [s.ema, s.kp, s.kq] ↔ s.ema.toNat < 2 ^ s.params.bits
      ∧ s.kp.toNat < 2 ^ s.params.bits ∧ s.kq.toNat < 2 ^ s.params.bits := by simp
  rw [State.regsWf, State.fifosWf, State.flagsWf, decide_eq_true_iff, decide_eq_true_iff, decide_eq_true_iff, hconst]
  constructor
  · intro h
    exact ⟨h.params, ⟨⟨h.ema, h.kp, h.kq⟩, h.blk, h.nonce, h.key, h.pwc, h.pwtag, h.schedSize, h.schedFit, h.lram⟩,
      ⟨h.inFifo, h.outFifo⟩, h.lastop, h.keyed⟩
  · rintro ⟨hp, ⟨⟨hema, hkp, hkq⟩, hblk, hnonce, hkey, hpwc, hpwtag, hsize, hfit, hlram⟩, ⟨hin, hout⟩, hlast, hkeyed⟩
    exact ⟨hp, hema, hkp, hkq, hblk, hnonce, hkey, hpwc, hpwtag, hsize, hfit, hlram, hin, hout, hlast, hkeyed⟩

theorem seqWf_idle {s : State} (h : s.seq = .idle) : s.seqWf = true := by
  simp only [State.seqWf, h]

theorem seqWf_run {s : State} {c : Cfg} {work : Work} (h : s.seq = .run c work) :
    s.seqWf = true ↔ s.RunWf c work := by
  simp only [State.seqWf, h, decide_eq_true_iff]

section
variable {s : State} {c : Cfg}

theorem State.Inv.data (h : s.Inv) : s.DataWf := by
  obtain ⟨hparams, hregs, hfifos, hflags, -⟩ := h
  exact (dataWf_iff s).2 ⟨hparams, hregs, hfifos, hflags⟩

theorem State.Inv.running (h : s.Inv) {work : Work} (hs : s.seq = .run c work) : s.RunWf c work := by
  obtain ⟨-, -, -, -, hseq⟩ := h
  exact (seqWf_run hs).1 hseq

theorem State.DataWf.inv (h : s.DataWf) (hs : s.seqWf = true) : s.Inv := by
  obtain ⟨hparams, hregs, hfifos, hflags⟩ := (dataWf_iff s).1 h
  exact ⟨hparams, hregs, hfifos, hflags, hs⟩

theorem State.DataWf.inv_idle (h : s.DataWf) (hs : s.seq = .idle) : s.Inv := h.inv (seqWf_idle hs)

theorem State.DataWf.inv_run (h : s.DataWf) {work : Work} (hs : s.seq = .run c work) (hr : s.RunWf c work) : s.Inv :=
  h.inv ((seqWf_run hs).2 hr)

/-- A running command keeps what is asked of it when its working state moves on to another of the same command. -/
theorem State.RunWf.next {work work' : Work} (h : s.RunWf c work) (hop : work'.op = work.op)
    (hwork : workWf s.params c work' = true) : s.RunWf c work' := by
  obtain ⟨hcfg, hcmd, hwf, hvalid, hkey, hks, hdone, herr, -⟩ := h
  unfold State.RunWf
  rw [hop]
  exact ⟨hcfg, hcmd, hwf, hvalid, hkey, hks, hdone, herr, hwork⟩

theorem State.RunWf.work {work : Work} (h : s.RunWf c work) : workWf s.params c work = true := by
  obtain ⟨-, -, -, -, -, -, -, -, hwork⟩ := h
  exact hwork

theorem State.RunWf.valid {work : Work} (h : s.RunWf c work) (hn : needsCfg work.op = true) :
    cfgValid s.params c = true ∧ cfgValid s.params s.cfg = true := by
  obtain ⟨hcfg, -, -, hvalid, -⟩ := h
  exact ⟨hvalid hn, hcfg ▸ hvalid hn⟩

/-! ### The operations that write registers, RAMs or FIFOs -/

theorem State.DataWf.complete (h : s.DataWf) (code : ErrCode) : (s.complete code).Inv :=
  State.DataWf.inv_idle (s := s.complete code) { h with } rfl

theorem blockRegWf_storeBlock {p : Params} {regs : List Reg} (b : Block p.bits) (h : BlockRegWf p regs) :
    BlockRegWf p (storeBlock b regs) := ⟨(storeBlock_length b regs).trans h.1, wordsFit_storeBlock b h.2⟩

theorem blockRegWf_set {p : Params} {regs : List Reg} (h : BlockRegWf p regs) (j : Nat) (v : Reg) :
    BlockRegWf p (regs.set j (truncReg p.bits v)) := ⟨List.length_set.trans h.1, wordsFit_set h.2 j v⟩

theorem blockRegWf_overlay {p : Params} {xs regs : List Reg} (hx : WordsFit p.bits xs) (h : BlockRegWf p regs) :
    BlockRegWf p (overlay xs regs) := ⟨(overlay_length xs regs).trans h.1, wordsFit_overlay hx h.2⟩

theorem State.DataWf.setBlk (h : s.DataWf) (b : Block s.params.bits) : (s.setBlk b).DataWf :=
  { h with blk := blockRegWf_storeBlock b h.blk }

theorem State.DataWf.setNonce (h : s.DataWf) (b : Block s.params.bits) : (s.setNonce b).DataWf :=
  { h with nonce := blockRegWf_storeBlock b h.nonce }

theorem State.DataWf.setPwc (h : s.DataWf) (b : Block s.params.bits) : (s.setPwc b).DataWf :=
  { h with pwc := blockRegWf_storeBlock b h.pwc }

theorem State.DataWf.advanceNonce (h : s.DataWf) (c : Cfg) : (s.advanceNonce c).DataWf :=
  { h with nonce := blockRegWf_storeBlock _ h.nonce }

end
/-! ### `CfgValid` and the block size -/

theorem isPow2_iff (n : Nat) : isPow2 n = true ↔ ∃ k, n = 2 ^ k := by
  simp only [isPow2, beq_iff_eq]
  constructor
  · exact fun h => ⟨_, h⟩
  · rintro ⟨k, rfl⟩
    rw [Nat.log2_two_pow]

theorem cfgValid_iff (p : Params) (c : Cfg) :
    cfgValid p c = true ↔
      (1 ≤ c.r ∧ c.r ≤ p.rMax) ∧ (2 ≤ c.n ∧ c.n ≤ p.nMax)
      ∧ (p.p2req = true → ∃ k, c.n = 2 ^ k) ∧ (p.family = .ddr → c.hexkey = false) := by
  have hpow : (!p.p2req || isPow2 c.n) = true ↔ (p.p2req = true → ∃ k, c.n = 2 ^ k) := by
    rw [← isPow2_iff]
    cases p.p2req <;> simp
  have hhex : (p.family == .em || !c.hexkey) = true ↔ (p.family = .ddr → c.hexkey = false) := by
    cases p.family <;> simp
  simp only [cfgValid, Bool.and_eq_true, decide_eq_true_iff, hpow, hhex, and_assoc]

theorem bytesPerWord_pos (wd : WordWidth) : 0 < bytesPerWord wd.bits := by cases wd <;> decide

theorem blockBytes_pos {p : Params} {c : Cfg} (h : cfgValid p c = true) : 0 < blockBytes p.bits c.n := by
  obtain ⟨-, ⟨hn, -⟩, -⟩ := (cfgValid_iff p c).1 h
  exact Nat.mul_pos (by omega) (bytesPerWord_pos p.width)

/-! ### The sizes of what the commands compute -/

@[simp] theorem freeRegs_length (w n draw : Nat) : (freeRegs w n draw).length = n := by simp [freeRegs]

@[simp] theorem freeBytes_length (n draw : Nat) : (freeBytes n draw).length = n := by simp [freeBytes]

@[simp] theorem seedFold_length (bb : Nat) (buf : List Byte) (k : Nat) (b : Byte) :
    (seedFold bb buf k b).length = buf.length := List.length_set

theorem emAbsorb_length (c : Cfg) (s : State) (k : List Reg) (chunk : List Byte) :
    (emAbsorb c s k chunk).length = c.n := by simp [emAbsorb]

theorem wordsFit_emAbsorb (c : Cfg) (s : State) (k : List Reg) (chunk : List Byte) :
    WordsFit s.params.bits (emAbsorb c s k chunk) := wordsFit_toRegs _

theorem pack_length {w : Nat} (x : Block w) : (pack x).length = blockBytes w x.length := by
  simp [pack, bytesOfWord, blockBytes, List.length_flatMap]

/-- The encrypted nonce is a Block of `N` Words. -/
theorem encryptBlock_nonce_length (c : Cfg) (s : State) :
    (encryptBlock (s.cipher c) (s.nonceBlock c)).length = c.n := by
  rw [encryptBlock_length] <;> simp [State.nonceBlock]

theorem sencBlockBytes_length (c : Cfg) (s : State) (bytes : List Byte) :
    (sencBlockBytes c s bytes).length = blockBytes s.params.bits c.n := by
  rw [sencBlockBytes, pack_length, mcEncBlock, encryptBlock_length] <;> simp [encryptBlock_nonce_length]

theorem sdecBlockBytes_length (c : Cfg) (s : State) (bytes : List Byte) :
    (sdecBlockBytes c s bytes).length = blockBytes s.params.bits c.n := by
  have hd : (decryptBlock (s.cipher c) (unpack s.params.bits c.n bytes)).length = c.n := by
    rw [decryptBlock_length] <;> simp
  simp [sdecBlockBytes, pack_length, mcDecBlock, encryptBlock_nonce_length, hd]

theorem stripPadding_length_le (bytes : List Byte) : (stripPadding bytes).length ≤ bytes.length :=
  List.length_take_le' ..

/-- A fill count that wraps at the buffer's size (10_state.md R57). -/
theorem succ_mod_eq {total size : Nat} (hs : 0 < size) :
    (total + 1) % size = if total % size + 1 = size then 0 else total % size + 1 := by
  have hlt := Nat.mod_lt total hs
  rw [← Nat.mod_add_mod]
  split
  case isTrue h => rw [h, Nat.mod_self]
  case isFalse => exact Nat.mod_eq_of_lt (by omega)

/-! ### The working states -/

section
variable {p : Params} {c : Cfg}

theorem workWf_ksBytes {k : List Reg} {buf : List Byte} {total : Nat} :
    workWf p c (.ksBytes k buf total) = true ↔ p.family = .em ∧ c.hexkey = false ∧ k.length = c.n
      ∧ WordsFit p.bits k ∧ buf.length = total % blockBytes p.bits c.n := decide_eq_true_iff

theorem workWf_ksHex {k : List Reg} {nibs : List (BitVec 4)} {total : Nat} :
    workWf p c (.ksHex k nibs total) = true ↔ p.family = .em ∧ c.hexkey = true ∧ k.length = c.n
      ∧ WordsFit p.bits k ∧ nibs.length = total % (2 * blockBytes p.bits c.n) := decide_eq_true_iff

theorem workWf_ksDdr {n : Nat} {acc : DdrAcc} :
    workWf p c (.ksDdr n acc) = true ↔ p.family = .ddr ∧ n ≤ p.lMaxBytes ∧ acc = ddrAccInit := decide_eq_true_iff

theorem workWf_nseed {buf : List Byte} {k : Nat} :
    workWf p c (.nseed buf k) = true ↔ buf.length = blockBytes p.bits c.n := decide_eq_true_iff

theorem workWf_senc {buf out : List Byte} {last : Bool} :
    workWf p c (.senc buf out last) = true ↔ EmitWf (blockBytes p.bits c.n) buf out last := decide_eq_true_iff

theorem workWf_sdec {buf out : List Byte} {held : Option (List Byte)} {last : Bool} :
    workWf p c (.sdec buf held out last) = true ↔ EmitWf (blockBytes p.bits c.n) buf out last
      ∧ (∀ h ∈ held, h.length = blockBytes p.bits c.n) ∧ (out ≠ [] → held.isSome = !last) := by
  simp only [workWf, decide_eq_true_iff, Option.all_eq_true, beq_iff_eq]
  rfl

/-- A block starts to be emitted with an empty buffer. -/
theorem emitWf_start {bb : Nat} {out : List Byte} {last : Bool} (hbb : 0 < bb) (hlen : out.length ≤ bb)
    (hlast : last = true → out ≠ []) : EmitWf bb [] out last := ⟨hbb, hlen, fun _ => rfl, hlast⟩

/-- A command at `take()` is not on its last block. -/
theorem EmitWf.last_eq_false {bb : Nat} {buf : List Byte} {last : Bool} (h : EmitWf bb buf [] last) :
    last = false := by
  obtain ⟨-, -, -, hlast⟩ := h
  simpa using hlast

/-- A byte below a full block joins the buffer. -/
theorem EmitWf.push {bb : Nat} {buf : List Byte} {last : Bool} (h : EmitWf bb buf [] last) (b : Byte)
    (hb : buf.length + 1 ≠ bb) : EmitWf bb (buf ++ [b]) [] false := by
  obtain ⟨hlen, -⟩ := h
  exact ⟨by simp; omega, by simp, by simp, by simp⟩

/-- After a byte has been emitted, unless it was the last of the last block. -/
theorem EmitWf.tail {bb : Nat} {buf out : List Byte} {b : Byte} {last : Bool} (h : EmitWf bb buf (b :: out) last)
    (hout : ¬(out = [] ∧ last = true)) : EmitWf bb buf out last := by
  obtain ⟨hlen, hle, hbuf, -⟩ := h
  refine ⟨hlen, ?_, fun _ => hbuf (by simp), fun hl ho => hout ⟨ho, hl⟩⟩
  simp only [List.length_cons] at hle
  omega

end
/-! ### `take()`, going on, and emitting -/

section
variable {s t : State} {c : Cfg}

/-- Taking the head token (20_memory.md R90). -/
theorem State.DataWf.take {tok : Token} {rest : List Token} (h : s.DataWf) (hf : s.inFifo = tok :: rest) (count : Reg) :
    ({ s with inFifo := rest, incnt := count } : State).DataWf where
  __ := h
  inFifo := by
    have hlen := h.inFifo
    rw [hf, List.length_cons] at hlen
    exact (Nat.le_succ _).trans hlen

/-- A command that goes on (44_control.md R282). -/
theorem State.DataWf.goOn (h : s.DataWf) {work : Work} (hr : s.RunWf c work) :
    ({ s with seq := .run c work } : State).Inv :=
  State.DataWf.inv_run (s := { s with seq := .run c work }) { h with } rfl hr

theorem State.DataWf.emitThen (h : s.DataWf) {work : List Byte → Work} {out : List Byte} {last : Bool}
    (hr : ¬(out = [] ∧ last = true) → s.RunWf c (work out)) : (s.emitThen c work out last).Inv := by
  unfold State.emitThen
  split
  case isTrue => exact h.complete .none
  case isFalse hout => exact h.goOn (hr hout)

theorem emitStep_inv (h : s.Inv) {work : List Byte → Work} {b : Byte} {out : List Byte} {last : Bool}
    (hr : ¬(out = [] ∧ last = true) → s.RunWf c (work out)) : (emitStep c work b out last s).Inv := by
  by_cases hroom : s.outFifo.length < s.params.outDepth
  · rw [emitStep_room work b out last hroom]
    have hemit : ({ s with outFifo := s.outFifo ++ [b], outcnt := s.outcnt + 1 } : State).DataWf :=
      { h.data with outFifo := by simpa using hroom }
    exact hemit.emitThen hr
  · rwa [emitStep_full work b out last (by omega)]

/-! ### The engine steps of `KSCHED` -/

/-- A `KSCHED` that fails leaves free values in the key RAMs (41_key_schedule.md R194). -/
theorem State.DataWf.failKey (h : s.DataWf) (c : Cfg) (code : ErrCode) : (s.failKey c code).Inv := by
  have hfree : (s.freeKeyRams c.n).DataWf :=
    { h with
      key := blockRegWf_overlay (wordsFit_freeRegs ..) h.key
      schedSize := (freeRegs_length ..).trans h.schedSize
      schedFit := wordsFit_freeRegs ..
      lram := (freeBytes_length ..).trans h.lram }
  exact hfree.complete code

theorem State.DataWf.finishEmKey {k : List Reg} (h : s.DataWf) (hk : WordsFit s.params.bits k)
    (hvalid : cfgValid s.params s.cfg = true) : (s.finishEmKey k).Inv := by
  have hkeyed : ({ s with key := overlay k s.key, kvalid := true } : State).DataWf :=
    { h with key := blockRegWf_overlay hk h.key, keyed := fun _ => hvalid }
  exact hkeyed.complete .none

theorem State.DataWf.finishDdrKey (h : s.DataWf) (sched : Block s.params.bits)
    (hvalid : cfgValid s.params s.cfg = true) : (s.finishDdrKey sched).Inv := by
  have hkeyed : (State.freeLram { s with sched := storeBlock sched s.sched, kvalid := true }).DataWf :=
    { h with
      schedSize := (storeBlock_length ..).trans h.schedSize
      schedFit := wordsFit_storeBlock sched h.schedFit
      lram := (freeBytes_length ..).trans h.lram
      keyed := fun _ => hvalid }
  exact hkeyed.complete .none

theorem ksBytesStep_inv {k : List Reg} {buf : List Byte} {total : Nat} (h : s.Inv)
    (hs : s.seq = .run c (.ksBytes k buf total)) : (ksBytesStep c k buf total s).Inv := by
  have hrun := h.running hs
  obtain ⟨hvalid, hvalid'⟩ := hrun.valid rfl
  obtain ⟨hem, hbytes, hlen, hfit, hfill⟩ := workWf_ksBytes.1 hrun.work
  have hnext := succ_mod_eq (total := total) (blockBytes_pos hvalid)
  rw [← hfill] at hnext
  obtain hin | ⟨b, rest, hin⟩ | ⟨rest, hin⟩ | ⟨rest, hin⟩ := inFifo_cases s
  · rwa [ksBytesStep_empty hin]
  · rw [ksBytesStep_data hin]
    refine (h.data.take hin _).goOn (hrun.next ?_ ?_) <;> split
    · rfl
    · rfl
    case isTrue hfull =>
      rw [if_pos hfull] at hnext
      exact workWf_ksBytes.2 ⟨hem, hbytes, emAbsorb_length .., wordsFit_emAbsorb .., by simp [hnext]⟩
    case isFalse hfull =>
      rw [if_neg hfull] at hnext
      exact workWf_ksBytes.2 ⟨hem, hbytes, hlen, hfit, by simp [hnext]⟩
  · exact ksBytesStep_eof hin ▸ (h.data.take hin s.incnt).finishEmKey (wordsFit_emAbsorb c s ..) hvalid'
  · rw [ksBytesStep_failed hin]
    obtain hin | hin := hin <;> exact (h.data.take hin s.incnt).failKey c .io

theorem ksHexStep_inv {k : List Reg} {nibs : List (BitVec 4)} {total : Nat} (h : s.Inv)
    (hs : s.seq = .run c (.ksHex k nibs total)) : (ksHexStep c k nibs total s).Inv := by
  have hrun := h.running hs
  obtain ⟨hvalid, hvalid'⟩ := hrun.valid rfl
  obtain ⟨hem, hhex, hlen, hfit, hfill⟩ := workWf_ksHex.1 hrun.work
  have hnext := succ_mod_eq (total := total) (Nat.mul_pos two_pos (blockBytes_pos hvalid))
  rw [← hfill] at hnext
  obtain hin | ⟨b, rest, hin⟩ | ⟨rest, hin⟩ | ⟨rest, hin⟩ := inFifo_cases s
  · rwa [ksHexStep_empty hin]
  · by_cases hb : b.toNat ≤ 0x0F
    · rw [ksHexStep_data hin hb]
      refine (h.data.take hin _).goOn (hrun.next ?_ ?_) <;> split
      · rfl
      · rfl
      case isTrue hfull =>
        rw [if_pos hfull] at hnext
        exact workWf_ksHex.2 ⟨hem, hhex, emAbsorb_length .., wordsFit_emAbsorb .., by simp [hnext]⟩
      case isFalse hfull =>
        rw [if_neg hfull] at hnext
        exact workWf_ksHex.2 ⟨hem, hhex, hlen, hfit, by simp [hnext]⟩
    · exact ksHexStep_badNibble hin (by omega) ▸ (h.data.take hin _).complete .keyFmt
  · exact ksHexStep_eof hin ▸ (h.data.take hin s.incnt).finishEmKey (wordsFit_emAbsorb c s ..) hvalid'
  · rw [ksHexStep_failed hin]
    obtain hin | hin := hin <;> exact (h.data.take hin s.incnt).failKey c .io

theorem ksDdrStep_inv {n : Nat} {acc : DdrAcc} (h : s.Inv) (hs : s.seq = .run c (.ksDdr n acc)) :
    (ksDdrStep c n acc s).Inv := by
  have hrun := h.running hs
  obtain ⟨-, hvalid⟩ := hrun.valid rfl
  obtain ⟨hddr, hn, hacc⟩ := workWf_ksDdr.1 hrun.work
  obtain hin | ⟨b, rest, hin⟩ | ⟨rest, hin⟩ | ⟨rest, hin⟩ := inFifo_cases s
  · rwa [ksDdrStep_empty hin]
  · by_cases hmax : n = s.params.lMaxBytes
    · exact ksDdrStep_tooLong hin hmax ▸ (h.data.take hin _).failKey c .keyLen
    · rw [ksDdrStep_data hin hmax]
      have hdata : ({ s with inFifo := rest, incnt := s.incnt + 1, lram := s.lram.set n b } : State).DataWf :=
        { h.data.take hin (s.incnt + 1) with lram := List.length_set.trans h.data.lram }
      exact hdata.goOn (hrun.next rfl (workWf_ksDdr.2 ⟨hddr, by omega, hacc⟩))
  · exact ksDdrStep_eof hin ▸ (h.data.take hin s.incnt).finishDdrKey _ hvalid
  · rw [ksDdrStep_failed hin]
    obtain hin | hin := hin <;> exact (h.data.take hin s.incnt).failKey c .io

/-! ### The engine steps of the other commands that read the IN stream -/

theorem nseedStep_inv {buf : List Byte} {k : Nat} (h : s.Inv) (hs : s.seq = .run c (.nseed buf k)) :
    (nseedStep c buf k s).Inv := by
  have hrun := h.running hs
  have hbuf := workWf_nseed.1 hrun.work
  obtain hin | ⟨b, rest, hin⟩ | ⟨rest, hin⟩ | ⟨rest, hin⟩ := inFifo_cases s
  · rwa [nseedStep_empty hin]
  · rw [nseedStep_data hin]
    exact (h.data.take hin _).goOn (hrun.next rfl (workWf_nseed.2 ((seedFold_length ..).trans hbuf)))
  · exact nseedStep_eof hin ▸ ((h.data.take hin s.incnt).setNonce _).complete .none
  · rw [nseedStep_failed hin]
    obtain hin | hin := hin <;> exact (h.data.take hin s.incnt).complete .io

theorem sencTake_inv {buf : List Byte} {last : Bool} (h : s.Inv) (hs : s.seq = .run c (.senc buf [] last)) :
    (sencTake c buf s).Inv := by
  have hrun := h.running hs
  have hemit := workWf_senc.1 hrun.work
  obtain ⟨hvalid, -⟩ := hrun.valid rfl
  have hstart {bytes : List Byte} {last' : Bool} (hout : ¬(sencBlockBytes c s bytes = [] ∧ last' = true)) :
      s.RunWf c (.senc [] (sencBlockBytes c s bytes) last') :=
    hrun.next rfl (workWf_senc.2 (emitWf_start (blockBytes_pos hvalid) (sencBlockBytes_length ..).le
      fun hl ho => hout ⟨ho, hl⟩))
  obtain hin | ⟨b, rest, hin⟩ | ⟨rest, hin⟩ | ⟨rest, hin⟩ := inFifo_cases s
  · rwa [sencTake_empty hin]
  · by_cases hb : buf.length + 1 = blockBytes s.params.bits c.n
    · rw [sencTake_full hin hb]
      exact ((h.data.take hin _).advanceNonce c).emitThen hstart
    · rw [sencTake_partial hin hb]
      exact (h.data.take hin _).goOn (hrun.next rfl (workWf_senc.2 (hemit.push b hb)))
  · rw [sencTake_eof hin]
    exact ((h.data.take hin s.incnt).advanceNonce c).emitThen hstart
  · rw [sencTake_failed hin]
    obtain hin | hin := hin <;> exact (h.data.take hin s.incnt).complete .io

theorem sdecBlockTaken_inv {buf buf' : List Byte} {held : Option (List Byte)} {last : Bool} (h : s.DataWf)
    (hrun : s.RunWf c (.sdec buf held [] last)) (hfull : buf'.length = blockBytes s.params.bits c.n) :
    (sdecBlockTaken c held buf' s).Inv := by
  obtain ⟨hvalid, -⟩ := hrun.valid rfl
  have hbb := blockBytes_pos hvalid
  have hheld : ∀ blk ∈ some buf', blk.length = blockBytes s.params.bits c.n := by simpa using hfull
  cases held with
  | none =>
    exact h.goOn (hrun.next rfl (workWf_sdec.2 ⟨emitWf_start hbb (Nat.zero_le _) (by simp), hheld, by simp⟩))
  | some blk =>
    exact (h.advanceNonce c).emitThen fun _ => hrun.next rfl
      (workWf_sdec.2 ⟨emitWf_start hbb (sdecBlockBytes_length ..).le (by simp), hheld, by simp⟩)

theorem sdecEof_inv {buf : List Byte} {held : Option (List Byte)} {last : Bool} (h : s.DataWf)
    (hrun : s.RunWf c (.sdec buf held [] last)) : (sdecEof c buf held s).Inv := by
  obtain ⟨hvalid, -⟩ := hrun.valid rfl
  cases held with
  | none => exact h.complete .trunc
  | some blk =>
    unfold sdecEof
    dsimp only
    split
    case isTrue => exact h.complete .trunc
    case isFalse =>
      have hlen := (stripPadding_length_le (sdecBlockBytes c s blk)).trans (sdecBlockBytes_length ..).le
      exact (h.advanceNonce c).emitThen fun hout => hrun.next rfl
        (workWf_sdec.2 ⟨emitWf_start (blockBytes_pos hvalid) hlen fun _ ho => hout ⟨ho, rfl⟩, by simp, by simp⟩)

theorem sdecTake_inv {buf : List Byte} {held : Option (List Byte)} {last : Bool} (h : s.Inv)
    (hs : s.seq = .run c (.sdec buf held [] last)) : (sdecTake c buf held s).Inv := by
  have hrun := h.running hs
  obtain ⟨hemit, hheld, -⟩ := workWf_sdec.1 hrun.work
  obtain hin | ⟨b, rest, hin⟩ | ⟨rest, hin⟩ | ⟨rest, hin⟩ := inFifo_cases s
  · rwa [sdecTake_empty hin]
  · by_cases hb : buf.length + 1 = blockBytes s.params.bits c.n
    · rw [sdecTake_full hin hb]
      exact sdecBlockTaken_inv (h.data.take hin _) hrun (by simpa using hb)
    · rw [sdecTake_partial hin hb]
      exact (h.data.take hin _).goOn (hrun.next rfl (workWf_sdec.2 ⟨hemit.push b hb, hheld, by simp⟩))
  · exact sdecTake_eof hin ▸ sdecEof_inv (h.data.take hin s.incnt) hrun
  · rw [sdecTake_failed hin]
    obtain hin | hin := hin <;> exact (h.data.take hin s.incnt).complete .io

/-! ### Every command -/

/-- The engine step of the running command. -/
theorem exec_run_inv {work : Work} (h : s.Inv) (hs : s.seq = .run c work) (ht : exec work.op s = .next t) : t.Inv := by
  cases work with
  | nop => cases (exec_nop_run hs).symm.trans ht; exact h.data.complete _
  | ksBytes => cases (exec_ksBytes_run hs).symm.trans ht; exact ksBytesStep_inv h hs
  | ksHex => cases (exec_ksHex_run hs).symm.trans ht; exact ksHexStep_inv h hs
  | ksDdr => cases (exec_ksDdr_run hs).symm.trans ht; exact ksDdrStep_inv h hs
  | nseed => cases (exec_nseed_run hs).symm.trans ht; exact nseedStep_inv h hs
  | pwchk => cases (exec_pwchk_run hs).symm.trans ht; exact (h.data.setPwc _).complete _
  | pwver => cases (exec_pwver_run hs).symm.trans ht; exact (h.data.setPwc _).complete _
  | mix => cases (exec_mix_run hs).symm.trans ht; exact (h.data.setBlk _).complete _
  | unmix => cases (exec_unmix_run hs).symm.trans ht; exact (h.data.setBlk _).complete _
  | benc => cases (exec_benc_run hs).symm.trans ht; exact (h.data.setBlk _).complete _
  | bdec => cases (exec_bdec_run hs).symm.trans ht; exact (h.data.setBlk _).complete _
  | menc => cases (exec_menc_run hs).symm.trans ht; exact ((h.data.setBlk _).advanceNonce c).complete _
  | mdec => cases (exec_mdec_run hs).symm.trans ht; exact ((h.data.setBlk _).advanceNonce c).complete _
  | ninc => cases (exec_ninc_run hs).symm.trans ht; exact (h.data.setNonce _).complete _
  | senc buf out last =>
    have hrun := h.running hs
    cases out with
    | nil => cases (exec_senc_take hs).symm.trans ht; exact sencTake_inv h hs
    | cons b out =>
      have hemit := workWf_senc.1 hrun.work
      cases (exec_senc_emit hs).symm.trans ht
      exact emitStep_inv h fun hout => hrun.next rfl (workWf_senc.2 (hemit.tail hout))
  | sdec buf held out last =>
    have hrun := h.running hs
    cases out with
    | nil => cases (exec_sdec_take hs).symm.trans ht; exact sdecTake_inv h hs
    | cons b out =>
      obtain ⟨hemit, hheld, hlast⟩ := workWf_sdec.1 hrun.work
      cases (exec_sdec_emit hs).symm.trans ht
      exact emitStep_inv h fun hout => hrun.next rfl
        (workWf_sdec.2 ⟨hemit.tail hout, hheld, fun _ => hlast (by simp)⟩)

theorem engineTurn_inv (h : s.Inv) (ht : engineTurn s = .next t) : t.Inv := by
  cases hs : s.seq with
  | idle => cases (engineTurn_idle hs).symm.trans ht; exact h
  | run c work => exact exec_run_inv h hs ((engineTurn_run hs).symm.trans ht)

end
/-! ### Issuing a command -/

theorem issueError_eq_none_iff (i : Instr) (s : State) :
    issueError i s = .none ↔ i.wellFormed s.params = true
      ∧ (needsCfg i = true → cfgValid s.params s.cfg = true) ∧ (needsKey i = true → s.kvalid = true) := by
  unfold issueError
  split
  case isTrue h => simp_all
  case isFalse hwf =>
    split
    case isTrue h => simp_all
    case isFalse hcfg => split <;> simp_all

@[simp] theorem initialWork_op (p : Params) (c : Cfg) (i : Instr) : (initialWork p c i).op = i := by
  cases i with
  | ksched =>
    unfold initialWork
    dsimp only
    split
    · split <;> rfl
    · rfl
  | _ => rfl

/-- A command starts in a working state of its own rule (44_control.md R271). -/
theorem workWf_initialWork {p : Params} {c : Cfg} {i : Instr} (hvalid : needsCfg i = true → cfgValid p c = true) :
    workWf p c (initialWork p c i) = true := by
  cases i with
  | ksched =>
    unfold initialWork
    dsimp only
    split
    case h_1 hem =>
      split
      case isTrue hhex => exact workWf_ksHex.2 ⟨hem, hhex, by simp, wordsFit_toRegs _, by simp⟩
      case isFalse hhex => exact workWf_ksBytes.2 ⟨hem, by simpa using hhex, by simp, wordsFit_toRegs _, by simp⟩
    case h_2 hddr => exact workWf_ksDdr.2 ⟨hddr, Nat.zero_le _, rfl⟩
  | nseed => exact workWf_nseed.2 List.length_replicate
  | senc => exact workWf_senc.2 (emitWf_start (blockBytes_pos (hvalid rfl)) (Nat.zero_le _) (by simp))
  | sdec => exact workWf_sdec.2 ⟨emitWf_start (blockBytes_pos (hvalid rfl)) (Nat.zero_le _) (by simp), by simp, by simp⟩
  | _ => rfl

section
variable {s t : State}

theorem issue_inv (i : Instr) (h : s.Inv) : (s.issue i).Inv := by
  have haccept {a : State} (ha : a = { s with
      cmd := encode i, lastop := i.opcode, err := .none, done := false, incnt := 0, outcnt := 0
      kvalid := if i = .ksched then false else s.kvalid }) : a.DataWf := by
    subst ha
    refine { h.data with lastop := (cmdOp_encode i).symm, keyed := fun hk => h.data.keyed ?_ }
    by_cases hi : i = .ksched <;> simp_all
  obtain ⟨hpass, heq⟩ | ⟨-, heq⟩ := issue_cases i s
  · obtain ⟨hwf, hcfg, hkey⟩ := (issueError_eq_none_iff ..).1 hpass
    rw [heq]
    refine (haccept rfl).goOn ?_
    unfold State.RunWf
    rw [initialWork_op]
    exact ⟨rfl, rfl, hwf, hcfg, hkey, fun hi => if_pos hi, rfl, rfl, workWf_initialWork hcfg⟩
  · exact heq ▸ (haccept rfl).complete _

theorem issueIllegal_inv (v : Reg) (h : s.Inv) : (s.issueIllegal v).Inv := by
  have haccept : (s.accept v).DataWf := { h.data with lastop := rfl }
  exact haccept.complete .cmd

/-! ### Reset -/

theorem emaReset_lt (wd : WordWidth) : (emaReset wd).toNat < 2 ^ wd.bits := by cases wd <;> decide

theorem kpReset_lt (wd : WordWidth) : (kpReset wd).toNat < 2 ^ wd.bits := by cases wd <;> decide

theorem kqReset_lt (wd : WordWidth) : (kqReset wd).toNat < 2 ^ wd.bits := by cases wd <;> decide

theorem wordsFit_replicate_zero (w n : Nat) : WordsFit w (List.replicate n 0) := by
  simp only [wordsFit_iff, List.mem_replicate]
  rintro x ⟨-, rfl⟩
  exact Nat.two_pow_pos w

theorem blockRegWf_zero (p : Params) : BlockRegWf p (List.replicate p.nMax 0) :=
  ⟨List.length_replicate, wordsFit_replicate_zero ..⟩

theorem resetOf_dataWf {p : Params} (hp : p.wellFormed = true) : (State.resetOf p).DataWf where
  params := hp
  ema := emaReset_lt p.width
  kp := kpReset_lt p.width
  kq := kqReset_lt p.width
  blk := blockRegWf_zero p
  nonce := blockRegWf_zero p
  key := blockRegWf_zero p
  pwc := blockRegWf_zero p
  pwtag := blockRegWf_zero p
  schedSize := List.length_replicate
  schedFit := wordsFit_replicate_zero ..
  lram := List.length_replicate
  inFifo := Nat.zero_le _
  outFifo := Nat.zero_le _
  lastop := rfl
  keyed := by simp [State.resetOf]

theorem resetOf_inv {p : Params} (hp : p.wellFormed = true) : (State.resetOf p).Inv :=
  (resetOf_dataWf hp).inv_idle rfl

theorem resetEngine_inv (h : s.Inv) : s.resetEngine.Inv := resetOf_inv (p := s.params) h.data.params

/-! ### The host's own fields -/

theorem State.Inv.setHost (h : s.Inv) (host : List HostAct) : ({ s with host := host } : State).Inv := h

theorem State.Inv.setResults (h : s.Inv) (results : List HostResult) : ({ s with results := results } : State).Inv := h

/-! ### The host's writes -/

theorem guarded_inv {f : State → State} (h : s.Inv) (hdata : (f s).DataWf) (hseq : (f s).seq = s.seq) :
    (s.guarded f).Inv := by
  cases hb : s.busy with
  | true => rw [guarded_busy hb]; exact h
  | false => rw [guarded_idle hb]; exact hdata.inv_idle (hseq.trans ((busy_eq_false_iff s).1 hb))

theorem flushIn_inv (h : s.Inv) : (s.guarded State.flushIn).Inv :=
  guarded_inv h { h.data with inFifo := Nat.zero_le _ } rfl

theorem flushOut_inv (h : s.Inv) : (s.guarded State.flushOut).Inv :=
  guarded_inv h { h.data with outFifo := Nat.zero_le _ } rfl

theorem writeCtrl_inv (v : Reg) (h : s.Inv) : (s.writeCtrl v).Inv := by
  have setIe : ({ s with ie := v.getLsbD 0 } : State).Inv := h
  unfold State.writeCtrl
  split
  case isTrue => exact resetEngine_inv h
  case isFalse =>
    dsimp only
    split <;> split
    · exact flushOut_inv (flushIn_inv setIe)
    · exact flushOut_inv setIe
    · exact flushIn_inv setIe
    · exact setIe

/-- A `STATUS` write clears `DONE` and sticky flags only, so a running command's `DONE` stays 0 (R34). -/
theorem writeStatus_inv (v : Reg) (h : s.Inv) : (s.writeStatus v).Inv := by
  have hdata : (s.writeStatus v).DataWf := { h.data with }
  cases hs : s.seq with
  | idle => exact hdata.inv_idle hs
  | run c work =>
    obtain ⟨hcfg, hcmd, hwf, hvalid, hkey, hks, hdone, herr, hwork⟩ := h.running hs
    exact hdata.inv_run hs ⟨hcfg, hcmd, hwf, hvalid, hkey, hks, by simp [State.writeStatus, hdone], herr, hwork⟩

theorem pushIn_inv (v : Reg) (h : s.Inv) : (s.pushIn v).Inv := by
  unfold State.pushIn
  split
  case isTrue hroom =>
    refine State.DataWf.inv (s := { s with inFifo := _ }) { h.data with inFifo := by simpa using hroom } ?_
    obtain ⟨-, -, -, -, hseq⟩ := h
    exact hseq
  case isFalse => exact h

theorem writeCmd_inv {v : Reg} (h : s.Inv) (ht : s.writeCmd v = .next t) : t.Inv := by
  unfold State.writeCmd at ht
  split at ht
  case isTrue => cases ht; exact h
  case isFalse hb =>
    have hidle : s.seq = .idle := (busy_eq_false_iff s).1 (by simpa using hb)
    split at ht
    · cases (exec_idle _ hidle).symm.trans ht; exact issue_inv _ h
    · cases ht; exact issueIllegal_inv v h

theorem writeReg_inv {r : RegName} {v : Reg} (h : s.Inv) (ht : s.writeReg r v = .next t) : t.Inv := by
  have hd := h.data
  have hv := truncReg_lt s.params.bits v
  cases r with
  | ctrl => cases ht; exact writeCtrl_inv v h
  | status => cases ht; exact writeStatus_inv v h
  | cmd => exact writeCmd_inv h ht
  | inpush => cases ht; exact pushIn_inv v h
  | cfg => cases ht; exact guarded_inv h { hd with keyed := by simp } rfl
  | ema => cases ht; exact guarded_inv h { hd with ema := hv, keyed := by simp } rfl
  | kp => cases ht; exact guarded_inv h { hd with kp := hv, keyed := by simp } rfl
  | kq => cases ht; exact guarded_inv h { hd with kq := hv, keyed := by simp } rfl
  | blk j => cases ht; exact guarded_inv h { hd with blk := blockRegWf_set hd.blk j v } rfl
  | nonce j => cases ht; exact guarded_inv h { hd with nonce := blockRegWf_set hd.nonce j v } rfl
  | pwtag j => cases ht; exact guarded_inv h { hd with pwtag := blockRegWf_set hd.pwtag j v } rfl
  | blkcnt | sidx => cases ht; exact guarded_inv h { hd with } rfl
  | _ => cases ht; exact h

/-! ### The host's reads -/

/-- Removing bytes from the OUT FIFO (R49). -/
theorem popOut_inv (h : s.Inv) : s.popOut.2.Inv := by
  unfold State.popOut
  split
  case h_1 => exact h
  case h_2 b rest hout =>
    have hlen := h.data.outFifo
    rw [hout, List.length_cons] at hlen
    refine State.DataWf.inv (s := { s with outFifo := rest }) { h.data with outFifo := (Nat.le_succ _).trans hlen } ?_
    obtain ⟨-, -, -, -, hseq⟩ := h
    exact hseq

/-- A read removes a byte of the OUT FIFO or draws a free value (20_memory.md R87, log 4), and no more. -/
theorem readReg_inv (r : RegName) (h : s.Inv) : (s.readReg r).2.Inv := by
  have readWord (writes : Instr → Bool) (regs : List Reg) (j : Nat) : (s.readWord writes regs j).2.Inv := by
    unfold State.readWord
    split <;> exact h
  cases r with
  | blkcnt =>
    simp only [State.readReg]
    split <;> exact h
  | outpop => exact popOut_inv h
  | blk | nonce | pwc => exact readWord ..
  | _ => exact h

theorem drainOnce_inv (n : Nat) (got : List Byte) (rest : List HostAct) (h : s.Inv) : (s.drainOnce n got rest).Inv := by
  have hread := readReg_inv .outpop h
  cases n with
  | zero => exact h
  | succ k =>
    simp only [State.drainOnce]
    split
    · split <;> exact hread
    · exact hread

theorem hostRead_inv (idx : BitVec 12) (h : s.Inv) : (s.hostRead idx).2.Inv :=
  State.Inv.setResults (readReg_inv (regOf s.params idx) h) _

theorem pollOnce_inv (idx : BitVec 12) (mask value : Reg) (rest : List HostAct) (h : s.Inv) :
    (s.pollOnce idx mask value rest).Inv := State.Inv.setHost (hostRead_inv idx h) _

/-! ### A step of the machine -/

theorem hostTurn_inv (h : s.Inv) (ht : hostTurn s = .next t) : t.Inv := by
  unfold hostTurn at ht
  split at ht
  case h_1 => cases ht; exact h
  case h_2 idx v rest _ => exact writeReg_inv (h.setHost rest) ht
  case h_3 idx rest _ => cases ht; exact hostRead_inv idx (h.setHost rest)
  case h_4 => cases ht; exact pollOnce_inv _ _ _ _ h
  case h_5 => cases ht; exact drainOnce_inv _ _ _ h

end

/-- Settles O59: each agent's turn keeps the invariant. -/
theorem everyStepKeepsTheInvariant : Obligations.EveryStepKeepsTheInvariant := by
  intro s t h hstep
  have hpop : s.popTurn.Inv := h
  obtain ⟨-, hhost⟩ | ⟨-, hengine⟩ | ⟨-, rfl⟩ := step_cases hstep
  · exact hostTurn_inv hpop hhost
  · exact engineTurn_inv hpop hengine
  · exact resetEngine_inv hpop

/-- Settles O58: every reset value is of its register's size and width. -/
theorem invariantHoldsAtReset : Obligations.InvariantHoldsAtReset :=
  ⟨resetOf_inv (by decide), fun _ hp => resetOf_inv hp⟩

/-- Settles O6: `cfgValid`'s four tests, the power of two among them (`isPow2_iff`). -/
theorem cfgValidMeansTheFourConditions : Obligations.CfgValidMeansTheFourConditions := cfgValid_iff

end Sys2Proof.Machine

/-! PROOFS. `KVALID` (10_state.md R55): which step sets it, and which events clear it. -/

namespace Sys2Proof.Machine

/-! ### The engine: only the EOF of a `KSCHED` sets `KVALID` -/

section
variable {s t : State} {c : Cfg}

@[simp] theorem emitThen_kvalid (work : List Byte → Work) (out : List Byte) (last : Bool) (s : State) :
    (s.emitThen c work out last).kvalid = s.kvalid := by
  unfold State.emitThen
  split <;> rfl

theorem emitStep_kvalid (work : List Byte → Work) (b : Byte) (out : List Byte) (last : Bool) (s : State) :
    (emitStep c work b out last s).kvalid = s.kvalid := by
  by_cases h : s.outFifo.length < s.params.outDepth
  · rw [emitStep_room work b out last h, emitThen_kvalid]
  · rw [emitStep_full work b out last (by omega)]

theorem nseedStep_kvalid (buf : List Byte) (k : Nat) (s : State) : (nseedStep c buf k s).kvalid = s.kvalid := by
  obtain h | ⟨b, rest, h⟩ | ⟨rest, h⟩ | ⟨rest, h⟩ := inFifo_cases s
  · rw [nseedStep_empty h]
  · rw [nseedStep_data h]
  · rw [nseedStep_eof h]; rfl
  · rw [nseedStep_failed h]; rfl

theorem sencTake_kvalid (buf : List Byte) (s : State) : (sencTake c buf s).kvalid = s.kvalid := by
  obtain h | ⟨b, rest, h⟩ | ⟨rest, h⟩ | ⟨rest, h⟩ := inFifo_cases s
  · rw [sencTake_empty h]
  · by_cases hb : buf.length + 1 = blockBytes s.params.bits c.n
    · simp [sencTake_full h hb]
    · rw [sencTake_partial h hb]
  · simp [sencTake_eof h]
  · rw [sencTake_failed h]; rfl

theorem sdecBlockTaken_kvalid (held : Option (List Byte)) (blk : List Byte) (s : State) :
    (sdecBlockTaken c held blk s).kvalid = s.kvalid := by
  cases held <;> simp [sdecBlockTaken]

theorem sdecEof_kvalid (buf : List Byte) (held : Option (List Byte)) (s : State) :
    (sdecEof c buf held s).kvalid = s.kvalid := by
  cases held with
  | none => rfl
  | some blk =>
    simp only [sdecEof]
    split <;> simp

theorem sdecTake_kvalid (buf : List Byte) (held : Option (List Byte)) (s : State) :
    (sdecTake c buf held s).kvalid = s.kvalid := by
  obtain h | ⟨b, rest, h⟩ | ⟨rest, h⟩ | ⟨rest, h⟩ := inFifo_cases s
  · rw [sdecTake_empty h]
  · by_cases hb : buf.length + 1 = blockBytes s.params.bits c.n
    · rw [sdecTake_full h hb, sdecBlockTaken_kvalid]
    · rw [sdecTake_partial h hb]
  · rw [sdecTake_eof h, sdecEof_kvalid]
  · rw [sdecTake_failed h]; rfl

/-- From `s` to `t` the engine step takes EOF and completes with error 0 and `KVALID = 1` (41_key_schedule.md R194). -/
structure KeyFinished (s t : State) : Prop where
  eof : ∃ rest, s.inFifo = .eof :: rest
  kvalid : t.kvalid = true
  seq : t.seq = .idle
  done : t.done = true
  err : t.err = .none

theorem ksBytesStep_kvalid (k : List Reg) (buf : List Byte) (total : Nat) (s : State) :
    (ksBytesStep c k buf total s).kvalid = s.kvalid ∨ KeyFinished s (ksBytesStep c k buf total s) := by
  obtain h | ⟨b, rest, h⟩ | ⟨rest, h⟩ | ⟨rest, h⟩ := inFifo_cases s
  · exact .inl (by rw [ksBytesStep_empty h])
  · exact .inl (by rw [ksBytesStep_data h])
  · exact .inr (ksBytesStep_eof h ▸ ⟨⟨rest, h⟩, rfl, rfl, rfl, rfl⟩)
  · exact .inl (by rw [ksBytesStep_failed h]; rfl)

theorem ksHexStep_kvalid (k : List Reg) (nibs : List (BitVec 4)) (total : Nat) (s : State) :
    (ksHexStep c k nibs total s).kvalid = s.kvalid ∨ KeyFinished s (ksHexStep c k nibs total s) := by
  obtain h | ⟨b, rest, h⟩ | ⟨rest, h⟩ | ⟨rest, h⟩ := inFifo_cases s
  · exact .inl (by rw [ksHexStep_empty h])
  · by_cases hb : b.toNat ≤ 0x0F
    · exact .inl (by rw [ksHexStep_data h hb])
    · exact .inl (by rw [ksHexStep_badNibble h (by omega)]; rfl)
  · exact .inr (ksHexStep_eof h ▸ ⟨⟨rest, h⟩, rfl, rfl, rfl, rfl⟩)
  · exact .inl (by rw [ksHexStep_failed h]; rfl)

theorem ksDdrStep_kvalid (n : Nat) (acc : DdrAcc) (s : State) :
    (ksDdrStep c n acc s).kvalid = s.kvalid ∨ KeyFinished s (ksDdrStep c n acc s) := by
  obtain h | ⟨b, rest, h⟩ | ⟨rest, h⟩ | ⟨rest, h⟩ := inFifo_cases s
  · exact .inl (by rw [ksDdrStep_empty h])
  · by_cases hn : n = s.params.lMaxBytes
    · exact .inl (by rw [ksDdrStep_tooLong h hn]; rfl)
    · exact .inl (by rw [ksDdrStep_data h hn])
  · exact .inr (ksDdrStep_eof h ▸ ⟨⟨rest, h⟩, rfl, rfl, rfl, rfl⟩)
  · exact .inl (by rw [ksDdrStep_failed h]; rfl)

/-- The engine step of the running command. -/
theorem exec_run_kvalid {work : Work} (hs : s.seq = .run c work) (h : exec work.op s = .next t) :
    t.kvalid = s.kvalid ∨ (work.op = .ksched ∧ KeyFinished s t) := by
  cases work with
  | ksBytes =>
    cases (exec_ksBytes_run hs).symm.trans h
    exact (ksBytesStep_kvalid ..).imp_right fun hf => ⟨rfl, hf⟩
  | ksHex =>
    cases (exec_ksHex_run hs).symm.trans h
    exact (ksHexStep_kvalid ..).imp_right fun hf => ⟨rfl, hf⟩
  | ksDdr =>
    cases (exec_ksDdr_run hs).symm.trans h
    exact (ksDdrStep_kvalid ..).imp_right fun hf => ⟨rfl, hf⟩
  | nop => cases (exec_nop_run hs).symm.trans h; exact .inl rfl
  | nseed => cases (exec_nseed_run hs).symm.trans h; exact .inl (nseedStep_kvalid ..)
  | pwchk => cases (exec_pwchk_run hs).symm.trans h; exact .inl rfl
  | pwver => cases (exec_pwver_run hs).symm.trans h; exact .inl rfl
  | mix => cases (exec_mix_run hs).symm.trans h; exact .inl rfl
  | unmix => cases (exec_unmix_run hs).symm.trans h; exact .inl rfl
  | benc => cases (exec_benc_run hs).symm.trans h; exact .inl rfl
  | bdec => cases (exec_bdec_run hs).symm.trans h; exact .inl rfl
  | menc => cases (exec_menc_run hs).symm.trans h; exact .inl rfl
  | mdec => cases (exec_mdec_run hs).symm.trans h; exact .inl rfl
  | ninc => cases (exec_ninc_run hs).symm.trans h; exact .inl rfl
  | senc buf out last =>
    cases out with
    | nil => cases (exec_senc_take hs).symm.trans h; exact .inl (sencTake_kvalid ..)
    | cons b out => cases (exec_senc_emit hs).symm.trans h; exact .inl (emitStep_kvalid ..)
  | sdec buf held out last =>
    cases out with
    | nil => cases (exec_sdec_take hs).symm.trans h; exact .inl (sdecTake_kvalid ..)
    | cons b out => cases (exec_sdec_emit hs).symm.trans h; exact .inl (emitStep_kvalid ..)

theorem engineTurn_kvalid (h : engineTurn s = .next t) :
    t.kvalid = s.kvalid ∨ ∃ c work, s.seq = .run c work ∧ work.op = .ksched ∧ KeyFinished s t := by
  cases hs : s.seq with
  | idle => cases (engineTurn_idle hs).symm.trans h; exact .inl rfl
  | run c work =>
    obtain heq | ⟨hop, hf⟩ := exec_run_kvalid hs ((engineTurn_run hs).symm.trans h)
    · exact .inl heq
    · exact .inr ⟨c, work, rfl, hop, hf⟩

/-! ### The decoder: which word is a `KSCHED` -/

/-- The opcode map gives a command its own opcode only (30_encoding.md R113). -/
theorem ofOpcode_eq_some {op : BitVec 8} {i : Instr} (h : ofOpcode op = some i) : op = i.opcode := by
  have htable : ∀ row ∈ opcodeTable, row.1 = row.2.opcode := by decide
  obtain ⟨row, hfind, rfl⟩ := Option.map_eq_some_iff.1 h
  have hop : row.1 = op := by simpa using List.find?_some hfind
  exact hop ▸ htable row (List.mem_of_find?_eq_some hfind)

/-- A command word is its two fields (R110). -/
theorem cmdRsv_append_cmdOp (v : Reg) : cmdRsv v ++ cmdOp v = v :=
  BitVec.extractLsb'_append_extractLsb' (w := 56) (len := 8)

/-- A word that decodes is its command's encoding (R112). -/
theorem eq_encode_of_decode {p : Params} {v : Reg} {i : Instr} (h : decode p v = .ok i) : v = encode i := by
  unfold decode at h
  split at h
  case isTrue => cases h
  case isFalse hrsv =>
    split at h
    case h_1 => cases h
    case h_2 j hop =>
      split at h
      case isFalse => cases h
      case isTrue =>
        cases h
        rw [← cmdRsv_append_cmdOp v, not_ne_iff.1 hrsv, ofOpcode_eq_some hop, encode]

/-! ### The host's reads leave `KVALID` -/

theorem readWord_kvalid (writes : Instr → Bool) (regs : List Reg) (j : Nat) (s : State) :
    (s.readWord writes regs j).2.kvalid = s.kvalid := by
  unfold State.readWord
  split <;> rfl

theorem popOut_kvalid (s : State) : s.popOut.2.kvalid = s.kvalid := by
  unfold State.popOut
  split <;> rfl

theorem readReg_kvalid (r : RegName) (s : State) : (s.readReg r).2.kvalid = s.kvalid := by
  cases r with
  | blkcnt =>
    simp only [State.readReg]
    split <;> rfl
  | outpop => exact popOut_kvalid s
  | blk | nonce | pwc => exact readWord_kvalid ..
  | _ => rfl

theorem drainOnce_kvalid (n : Nat) (got : List Byte) (rest : List HostAct) (s : State) :
    (s.drainOnce n got rest).kvalid = s.kvalid := by
  match n, hout : s.outFifo with
  | 0, _ => rfl
  | k + 1, [] => rw [drainOnce_empty hout]
  | 1, b :: out => rw [drainOnce_last hout]
  | k + 2, b :: out => rw [drainOnce_byte hout]

/-! ### The host's writes -/

/-- The writes that clear `KVALID` (R55): SRST, and while no command runs a `KSCHED` and the registers key material
depends on. -/
def WriteDropsKey (busy : Bool) (r : RegName) (v : Reg) : Prop :=
  (r = .ctrl ∧ v.getLsbD 1 = true) ∨ (busy = false ∧ r = .cmd ∧ v = 1)
    ∨ (busy = false ∧ r ∈ [RegName.cfg, .ema, .kp, .kq])

theorem guarded_kvalid {f : State → State} (hf : ∀ u : State, (f u).kvalid = u.kvalid) (s : State) :
    (s.guarded f).kvalid = s.kvalid := by
  unfold State.guarded
  split
  · rfl
  · exact hf s

/-- A guarded write that clears `KVALID` does so while no command runs only. -/
theorem guarded_drops {f : State → State} (hf : ∀ u : State, (f u).kvalid = false) (s : State) :
    (s.guarded f).kvalid = s.kvalid ∨ ((s.guarded f).kvalid = false ∧ s.busy = false) := by
  cases hb : s.busy with
  | true => exact .inl (by rw [guarded_busy hb]; rfl)
  | false => exact .inr ⟨by rw [guarded_idle hb, hf], rfl⟩

theorem issue_kvalid (i : Instr) (s : State) :
    (s.issue i).kvalid = if i = .ksched then false else s.kvalid := by
  obtain ⟨-, h⟩ | ⟨-, h⟩ := issue_cases i s <;> rw [h]

theorem writeCtrl_kvalid (v : Reg) (s : State) :
    (s.writeCtrl v).kvalid = s.kvalid ∨ ((s.writeCtrl v).kvalid = false ∧ v.getLsbD 1 = true) := by
  have flushIn (u : State) : (u.guarded State.flushIn).kvalid = u.kvalid := guarded_kvalid (fun _ => by rfl) u
  have flushOut (u : State) : (u.guarded State.flushOut).kvalid = u.kvalid := guarded_kvalid (fun _ => by rfl) u
  unfold State.writeCtrl
  split
  case isTrue hsrst => exact .inr ⟨rfl, hsrst⟩
  case isFalse =>
    left
    dsimp only
    split <;> split <;> simp only [flushIn, flushOut]

theorem pushIn_kvalid (v : Reg) (s : State) : (s.pushIn v).kvalid = s.kvalid := by
  unfold State.pushIn
  split <;> rfl

/-- A `CMD` write clears `KVALID` exactly when it is a `KSCHED` accepted while no command runs. -/
theorem writeCmd_kvalid {v : Reg} (h : s.writeCmd v = .next t) :
    t.kvalid = s.kvalid ∨ (t.kvalid = false ∧ s.busy = false ∧ v = 1) := by
  unfold State.writeCmd at h
  split at h
  case isTrue => cases h; exact .inl rfl
  case isFalse hb =>
    have hidle : s.seq = .idle := (busy_eq_false_iff s).1 (by simpa using hb)
    split at h
    case h_1 i hdec =>
      cases (exec_idle _ hidle).symm.trans h
      rw [issue_kvalid]
      by_cases hi : i = .ksched
      · subst hi
        exact .inr ⟨if_pos rfl, by simpa using hb, eq_encode_of_decode hdec⟩
      · exact .inl (if_neg hi)
    case h_2 => cases h; exact .inl rfl

theorem writeReg_kvalid {r : RegName} {v : Reg} (h : s.writeReg r v = .next t) :
    t.kvalid = s.kvalid ∨ (t.kvalid = false ∧ WriteDropsKey s.busy r v) := by
  cases r with
  | ctrl => cases h; exact (writeCtrl_kvalid v s).imp_right fun ⟨hk, hv⟩ => ⟨hk, .inl ⟨rfl, hv⟩⟩
  | cmd => exact (writeCmd_kvalid h).imp_right fun ⟨hk, hb, hv⟩ => ⟨hk, .inr (.inl ⟨hb, rfl, hv⟩)⟩
  | cfg | ema | kp | kq =>
    cases h
    exact (guarded_drops (fun _ => rfl) s).imp_right fun ⟨hk, hb⟩ => ⟨hk, .inr (.inr ⟨hb, by simp⟩)⟩
  | blkcnt | sidx | blk | nonce | pwtag => cases h; exact .inl (guarded_kvalid (fun _ => by rfl) s)
  | inpush => cases h; exact .inl (pushIn_kvalid v s)
  | _ => cases h; exact .inl rfl

/-! ### A step of the machine -/

theorem hostTurn_kvalid (h : hostTurn s = .next t) :
    t.kvalid = s.kvalid ∨ (t.kvalid = false ∧ ∃ idx v rest, s.host = .wr idx v :: rest
      ∧ WriteDropsKey s.busy (regOf s.params idx) v) := by
  unfold hostTurn at h
  split at h
  case h_1 => cases h; exact .inl rfl
  case h_2 idx v rest hhost =>
    exact (writeReg_kvalid h).imp_right fun ⟨hk, hdrop⟩ => ⟨hk, idx, v, rest, hhost, hdrop⟩
  case h_3 => cases h; exact .inl (readReg_kvalid ..)
  case h_4 => cases h; exact .inl (readReg_kvalid ..)
  case h_5 => cases h; exact .inl (drainOnce_kvalid ..)

/-- Everything a step can do to `KVALID`: leave it, set it as a `KSCHED` takes EOF, or clear it. -/
theorem step_kvalid (h : step s = .next t) :
    t.kvalid = s.kvalid
    ∨ (nextTurn s = .engine ∧ ∃ c work, s.seq = .run c work ∧ work.op = .ksched ∧ KeyFinished s t)
    ∨ (t.kvalid = false ∧ nextTurn s = .resetInput)
    ∨ (t.kvalid = false ∧ nextTurn s = .host ∧ ∃ idx v rest, s.host = .wr idx v :: rest
        ∧ WriteDropsKey s.busy (regOf s.params idx) v) := by
  obtain ⟨hturn, hhost⟩ | ⟨hturn, hengine⟩ | ⟨hturn, rfl⟩ := step_cases h
  · obtain heq | ⟨hk, hwrite⟩ := hostTurn_kvalid hhost
    · exact .inl heq
    · exact .inr (.inr (.inr ⟨hk, hturn, hwrite⟩))
  · obtain heq | ⟨c, work, hs, hop, hf⟩ := engineTurn_kvalid hengine
    · exact .inl heq
    · exact .inr (.inl ⟨hturn, c, work, hs, hop, ⟨hf.eof, hf.kvalid, hf.seq, hf.done, hf.err⟩⟩)
  · exact .inr (.inr (.inl ⟨rfl, hturn⟩))

end

/-- Settles O57: the case of `step_kvalid` that applies is the one the two values of `KVALID` leave. -/
theorem kvalidChangesOnlyByItsEvents : Obligations.KvalidChangesOnlyByItsEvents := by
  intro s t h
  obtain heq | ⟨hturn, c, work, hs, hop, ⟨rest, hin⟩, hk, hseq, hdone, herr⟩ | ⟨hk, hturn⟩ | ⟨hk, hturn, hwrite⟩ :=
    step_kvalid h
  · exact ⟨fun hf ht => by simp_all, fun ht hf => by simp_all⟩
  · exact ⟨fun _ _ => ⟨hturn, c, work, rest, hs, hop, hin, hseq, hdone, herr⟩, fun _ hf => by simp_all⟩
  · exact ⟨fun _ ht => by simp_all, fun _ _ => .inl hturn⟩
  · exact ⟨fun _ ht => by simp_all, fun _ _ => .inr ⟨hturn, hwrite⟩⟩

end Sys2Proof.Machine

/-! PROOFS. The host's view of single registers (10_state.md sections 2 to 9): what each field of a read-only register reads
as, what an accepted write stores, and the FIFO ports. A register value is a concatenation of its fields, so its field tables
come from where a bit range of a concatenation lies. -/

namespace Sys2Proof.Machine

/-! ### Register values -/

/-- `v[W-1:0]` as a number (10_state.md R58). -/
theorem truncReg_toNat (w : Nat) (v : Reg) : (truncReg w v).toNat = v.toNat % 2 ^ w := by
  have hlt : v.toNat % 2 ^ w < 2 ^ 64 := (Nat.mod_le _ _).trans_lt v.isLt
  simpa [truncReg] using hlt

/-- The bits a `CFG` write stores are bits [35:0] (R36). -/
theorem Cfg.toBits_ofBits (v : Reg) : (Cfg.ofBits v).toBits = (v.extractLsb' 0 36).setWidth 64 := by
  apply BitVec.eq_of_getLsbD_eq
  intro i hi
  simp only [Cfg.toBits, Cfg.ofBits, BitVec.getLsbD_append, BitVec.getLsbD_extractLsb', BitVec.getLsbD_setWidth,
    BitVec.getLsbD_ofBool]
  grind

theorem toNat_ofNat_of_lt {w m : Nat} (h : m < 2 ^ w) : (BitVec.ofNat w m).toNat = m :=
  (BitVec.toNat_ofNat m w).trans (Nat.mod_eq_of_lt h)

/-- The fields of `ID` (R31). -/
theorem idBits_fields (p : Params) :
    (idBits p).extractLsb' 0 8 = 1 ∧ (idBits p).extractLsb' 8 8 = BitVec.ofNat 8 p.bits
      ∧ (idBits p).getLsbD 16 = (p.family == .ddr) ∧ (idBits p).getLsbD 17 = p.p2req
      ∧ (idBits p).extractLsb' 18 14 = 0 ∧ (idBits p).extractLsb' 32 16 = BitVec.ofNat 16 p.rMax
      ∧ (idBits p).extractLsb' 48 16 = 0 := by
  simp (disch := omega) only [idBits, BitVec.extractLsb'_append_eq_of_le, BitVec.extractLsb'_append_eq_of_add_le, BitVec.getLsbD_append]
  simp

/-- The fields of `PARAM` (R32). -/
theorem paramBits_fields (p : Params) :
    (paramBits p).extractLsb' 0 16 = BitVec.ofNat 16 p.nMax ∧ (paramBits p).extractLsb' 16 16 = BitVec.ofNat 16 p.lMaxBytes
      ∧ (paramBits p).extractLsb' 32 16 = BitVec.ofNat 16 p.inDepth
      ∧ (paramBits p).extractLsb' 48 16 = BitVec.ofNat 16 p.outDepth := by
  simp (disch := omega) only [paramBits, BitVec.extractLsb'_append_eq_of_le, BitVec.extractLsb'_append_eq_of_add_le]
  simp

/-- The one-bit fields of `STATUS` (R34). -/
theorem statusBits_flags (s : State) :
    (statusBits s).getLsbD 0 = s.busy ∧ (statusBits s).getLsbD 1 = s.done ∧ (statusBits s).getLsbD 2 = s.kvalid
      ∧ (statusBits s).getLsbD 3 = s.wdrop ∧ (statusBits s).getLsbD 4 = s.inovf
      ∧ (statusBits s).getLsbD 24 = s.irq := by
  simp only [statusBits, BitVec.getLsbD_append, BitVec.getLsbD_ofBool]
  simp

/-- The wider fields of `STATUS` and its reserved bits (R34). -/
theorem statusBits_fields (s : State) :
    (statusBits s).extractLsb' 5 3 = 0 ∧ (statusBits s).extractLsb' 8 4 = s.err.bits
      ∧ (statusBits s).extractLsb' 12 4 = 0 ∧ (statusBits s).extractLsb' 16 8 = s.lastop
      ∧ (statusBits s).extractLsb' 25 39 = 0 := by
  simp (disch := omega) only [statusBits, BitVec.extractLsb'_append_eq_of_le, BitVec.extractLsb'_append_eq_of_add_le]
  simp

/-- The fields of `FIFOSTAT` (R47). -/
theorem fifostatBits_fields (s : State) :
    (fifostatBits s).extractLsb' 0 16 = BitVec.ofNat 16 s.inFifo.length
      ∧ (fifostatBits s).extractLsb' 16 16 = BitVec.ofNat 16 s.outFifo.length
      ∧ (fifostatBits s).extractLsb' 32 32 = 0 := by
  simp (disch := omega) only [fifostatBits, BitVec.extractLsb'_append_eq_of_le, BitVec.extractLsb'_append_eq_of_add_le]
  simp

/-- The word `OUTPOP` returns for a byte, as a disjunction (30_encoding.md R120). -/
theorem outWord_eq_or (b : Byte) : (0 : BitVec 55) ++ (1 : BitVec 1) ++ b = 0x100 ||| b.setWidth 64 := by
  revert b
  decide

/-! ### Read-only registers -/

/-- Settles O42: the sizes of a legal instance fit the fields that hold them. -/
theorem idAndParamIdentifyTheInstance : Obligations.IdAndParamIdentifyTheInstance := by
  intro s v hwf
  simp only [Params.wellFormed, Params.nMaxLegal, Params.rMaxLegal, Params.lMaxLegal, Params.inDepthLegal,
    Params.outDepthLegal, Bool.and_eq_true, decide_eq_true_iff] at hwf
  obtain ⟨⟨⟨⟨⟨⟨-, hn⟩, -, hr⟩, ⟨-, hl⟩, -⟩, -, hin⟩, -, hout⟩, -⟩ := hwf
  have toNat_ofNat16 {m : Nat} (hm : m ≤ 65535) : (BitVec.ofNat 16 m).toNat = m :=
    toNat_ofNat_of_lt (by omega)
  have hbits : (BitVec.ofNat 8 s.params.bits).toNat = s.params.bits :=
    toNat_ofNat_of_lt ((bits_le s.params.width).trans_lt (by decide))
  obtain ⟨hversion, hwidth, hfamily, hp2req, hrsv, hrMax, hrsv'⟩ := idBits_fields s.params
  obtain ⟨hnMax, hlMax, hinDepth, houtDepth⟩ := paramBits_fields s.params
  exact ⟨⟨hversion, (congrArg _ hwidth).trans hbits, hfamily, hp2req, hrsv,
      (congrArg _ hrMax).trans (toNat_ofNat16 hr), hrsv'⟩,
    ⟨(congrArg _ hnMax).trans (toNat_ofNat16 (by omega)), (congrArg _ hlMax).trans (toNat_ofNat16 hl),
      (congrArg _ hinDepth).trans (toNat_ofNat16 hin), (congrArg _ houtDepth).trans (toNat_ofNat16 hout)⟩, rfl, rfl⟩

/-- Settles O43: by the field tables, and `flag && !bit` is what a write of `bit` leaves of a flag. -/
theorem statusFieldsAndWriteOneToClear : Obligations.StatusFieldsAndWriteOneToClear := by
  intro s v
  obtain ⟨hbusy, hdone, hkvalid, hwdrop, hinovf, hirq⟩ := statusBits_flags s
  obtain ⟨hrsv, herr, hrsv', hlastop, hrsv''⟩ := statusBits_fields s
  have clear (flag bit : Bool) : (flag && !bit) = if bit then false else flag := by cases bit <;> simp
  refine ⟨⟨hbusy, hdone, hkvalid, hwdrop, hinovf, hrsv, herr.trans ?_, hrsv', hlastop, hirq, hrsv''⟩, ?_⟩
  · cases s.err <;> rfl
  · simp only [State.writeReg, State.writeStatus, clear]

/-- Settles O50: a level below 2^16 is its own 16-bit field. -/
theorem fifostatAndCountReads : Obligations.FifostatAndCountReads := by
  intro s v hin hout
  obtain ⟨hinLevel, houtLevel, hrsv⟩ := fifostatBits_fields s
  exact ⟨⟨(congrArg _ hinLevel).trans (toNat_ofNat_of_lt hin),
    (congrArg _ houtLevel).trans (toNat_ofNat_of_lt hout), hrsv⟩, rfl, rfl, rfl, rfl, rfl, rfl, rfl⟩

/-- Settles O52: the gates of `SDATA` and `KEY[j]`, and what each of them shuts. -/
theorem keyReadsAreGatedByKvalid : Obligations.KeyReadsAreGatedByKvalid := by
  intro s j v
  refine ⟨fun hddr hk hidx => ?_, fun hshut => ?_, rfl, fun hem hk => ?_, fun hshut => ?_, rfl⟩
  · have hopen : sdataValue s = s.sched.getD s.sidx.toNat 0 := if_pos ⟨hddr, hk, hidx⟩
    exact congrArg (·, s) hopen
  · have hzero : sdataValue s = 0 := by
      refine if_neg fun ⟨hddr, hk, hidx⟩ => ?_
      obtain hem | hk' | hidx' := hshut
      · simp [hddr] at hem
      · simp [hk] at hk'
      · exact Nat.not_lt.2 hidx' hidx
    exact congrArg (·, s) hzero
  · have hopen : keyValue j s = s.key.getD j 0 := if_pos ⟨hem, hk⟩
    exact congrArg (·, s) hopen
  · have hzero : keyValue j s = 0 := by
      refine if_neg fun ⟨hem, hk⟩ => ?_
      obtain hddr | hk' := hshut
      · simp [hem] at hddr
      · simp [hk] at hk'
    exact congrArg (·, s) hzero

/-! ### The FIFO ports -/

/-- Settles O49: by what `OUTPOP` returns for a byte and on an empty OUT FIFO. -/
theorem fifoPortsPushAndPop : Obligations.FifoPortsPushAndPop := by
  intro s v
  refine ⟨?_, rfl, fun b rest hout => ?_, readReg_outpop_empty, rfl⟩
  · simp only [State.writeReg, State.pushIn]
  · rw [readReg_outpop_byte hout, outWord_eq_or]

/-! ### Accepted writes -/

section
variable {s : State}

/-- While no command runs, a block word reads as it is held (R51). -/
theorem readWord_idle (hs : s.seq = .idle) (writes : Instr → Bool) (regs : List Reg) (j : Nat) :
    s.readWord writes regs j = (regs.getD j 0, s) := by
  simp [State.readWord, State.unstableWord, hs]

/-- While no command runs, `BLKCNT` reads as it is held (R42). -/
theorem readReg_blkcnt_idle (hs : s.seq = .idle) : s.readReg .blkcnt = (s.blkcnt, s) := by
  simp [State.readReg, State.unstable, hs]

/-- The word written to place `j` of a block register, read as a number. -/
theorem getD_set_truncReg {regs : List Reg} {j : Nat} (hj : j < regs.length) (w : Nat) (v : Reg) :
    ((regs.set j (truncReg w v)).getD j 0).toNat = v.toNat % 2 ^ w := by
  simp [hj, truncReg_toNat]

/-- The other words of a block register stay. -/
theorem getD_set_ne {regs : List Reg} {i j : Nat} (h : i ≠ j) (x : Reg) :
    (regs.set j x).getD i 0 = regs.getD i 0 := by
  simp [List.getElem?_set_ne h.symm]

/-- The number of words of the writable block registers (R51). -/
theorem blockRegs_length (h : s.regsWf = true) :
    s.blk.length = s.params.nMax ∧ s.nonce.length = s.params.nMax ∧ s.pwtag.length = s.params.nMax := by
  obtain ⟨-, ⟨hblk, -⟩, ⟨hnonce, -⟩, -, -, ⟨hpwtag, -⟩, -⟩ := of_decide_eq_true h
  exact ⟨hblk, hnonce, hpwtag⟩

end

/-- Settles O46: each write sets one word, which the next read returns. -/
theorem acceptedBlockWrites : Obligations.AcceptedBlockWrites := by
  intro s v j hb hregs hj
  obtain ⟨hblk, hnonce, hpwtag⟩ := blockRegs_length hregs
  have hs := (busy_eq_false_iff s).1 hb
  simp only [State.writeReg, guarded_idle hb, State.readReg]
  refine ⟨⟨_, rfl, rfl, ?_, fun i hi => getD_set_ne hi _⟩, ⟨_, rfl, rfl, ?_, fun i hi => getD_set_ne hi _⟩,
    ⟨_, rfl, rfl, getD_set_truncReg (hj.trans_eq hpwtag.symm) _ v, fun i hi => getD_set_ne hi _⟩, trivial, trivial⟩
  · rw [readWord_idle (by exact hs)]
    exact getD_set_truncReg (hj.trans_eq hblk.symm) _ v
  · rw [readWord_idle (by exact hs)]
    exact getD_set_truncReg (hj.trans_eq hnonce.symm) _ v

/-- Settles O45: each write stores the bits its register uses, which the next read returns. -/
theorem acceptedRegisterWrites : Obligations.AcceptedRegisterWrites := by
  intro s v hb
  have hs := (busy_eq_false_iff s).1 hb
  simp only [State.writeReg, guarded_idle hb]
  refine ⟨⟨_, rfl, rfl, Cfg.toBits_ofBits v⟩, ⟨_, rfl, rfl, truncReg_toNat _ v⟩, ⟨_, rfl, rfl, truncReg_toNat _ v⟩,
    ⟨_, rfl, rfl, truncReg_toNat _ v⟩, ⟨_, rfl, rfl, ?_⟩, ⟨_, rfl, rfl, ?_⟩⟩
  · rw [readReg_blkcnt_idle (by exact hs)]
  · have hlow : v.setWidth 32 = v.extractLsb' 0 32 := BitVec.setWidth_eq_extractLsb' (by decide)
    exact congrArg (BitVec.setWidth 64) hlow

end Sys2Proof.Machine

/-! PROOFS. The byte order of Blocks (20_memory.md R82): which byte stands where in a packed Block, and that a Word and a Block
are fixed by their bytes. A byte is a range of 8 bits of its Word, so both directions come from one lemma about the ranges of
`wordOfBytes`. -/

namespace Sys2Proof.Machine

/-- A Word is a whole number of bytes (00_scope.md R2). -/
theorem bits_eq_bytes (wd : WordWidth) : wd.bits = 8 * bytesPerWord wd.bits := by cases wd <;> rfl

/-- Two lists of one length that agree at every place are equal. -/
theorem eq_of_getD_eq {α : Type} {l l' : List α} (d : α) (hlen : l.length = l'.length)
    (h : ∀ k < l.length, l.getD k d = l'.getD k d) : l = l' := by
  apply List.ext_getElem hlen
  intro k hk hk'
  simpa [hk, hk'] using h k hk

section
variable {w : Nat}

/-! ### The bytes of a Word -/

@[simp] theorem bytesOfWord_length (x : Word w) : (bytesOfWord x).length = bytesPerWord w := by simp [bytesOfWord]

theorem bytesOfWord_getD (x : Word w) {q : Nat} (hq : q < bytesPerWord w) :
    (bytesOfWord x).getD q 0 = x.extractLsb' (w - 8 - 8 * q) 8 := by simp [bytesOfWord, hq]

/-- A Word is fixed by its bytes. -/
theorem eq_of_bytes_eq {x y : Word w} (hw : w = 8 * bytesPerWord w)
    (h : ∀ q < bytesPerWord w, x.extractLsb' (w - 8 - 8 * q) 8 = y.extractLsb' (w - 8 - 8 * q) 8) : x = y := by
  apply BitVec.eq_of_getLsbD_eq
  intro i hi
  have hbyte := congrArg (·.getLsbD (i % 8)) (h (bytesPerWord w - 1 - i / 8) (by omega))
  have hplace : w - 8 - 8 * (bytesPerWord w - 1 - i / 8) + i % 8 = i := by omega
  have hbit : i % 8 < 8 := Nat.mod_lt i (by decide)
  simpa only [BitVec.getLsbD_extractLsb', hplace, hbit, decide_true, Bool.true_and] using hbyte

/-! ### The Word of a byte list -/

/-- One more byte moves the others up by 8 bits. -/
theorem wordOfBytes_concat (bytes : List Byte) (b : Byte) :
    wordOfBytes w (bytes ++ [b]) = (wordOfBytes w bytes ++ b).setWidth w := by
  apply BitVec.eq_of_toNat_eq
  simp only [wordOfBytes, List.foldl_append, List.foldl_cons, List.foldl_nil, BitVec.toNat_ofNat, BitVec.toNat_setWidth,
    BitVec.toNat_append]
  rw [← Nat.shiftLeft_add_eq_or_of_lt b.isLt, Nat.shiftLeft_eq]
  simp [Nat.add_mod, Nat.mul_mod]

/-- Byte `k` of the Word, counted from the least significant, is the last but `k`. -/
theorem wordOfBytes_reverse_byte (bytes : List Byte) {k : Nat} (hk : 8 * (k + 1) ≤ w) :
    (wordOfBytes w bytes.reverse).extractLsb' (8 * k) 8 = bytes.getD k 0 := by
  induction bytes generalizing k with
  | nil => simp [wordOfBytes]
  | cons b bytes ih =>
    rw [List.reverse_cons, wordOfBytes_concat]
    cases k with
    | zero =>
      ext i hi
      have hiw : i < w := by omega
      simp [BitVec.getLsbD_append, hi, hiw]
    | succ k =>
      rw [List.getD_cons_succ, ← ih (by omega)]
      ext i hi
      have hiw : 8 * (k + 1) + i < w := by omega
      have hle : ¬8 * (k + 1) + i < 8 := by omega
      have hsub : 8 * (k + 1) + i - 8 = 8 * k + i := by omega
      simp [BitVec.getLsbD_append, hiw, hle, hsub]

/-- Byte `q` of the Word of `u` bytes, counted from the most significant, is byte `q` of the list (R82). -/
theorem wordOfBytes_byte {bytes : List Byte} (hw : w = 8 * bytesPerWord w) (hlen : bytes.length = bytesPerWord w)
    {q : Nat} (hq : q < bytesPerWord w) :
    (wordOfBytes w bytes).extractLsb' (w - 8 - 8 * q) 8 = bytes.getD q 0 := by
  have hplace : w - 8 - 8 * q = 8 * (bytesPerWord w - 1 - q) := by omega
  have hmirror : bytes.reverse.getD (bytesPerWord w - 1 - q) 0 = bytes.getD q 0 := by
    have hback : bytesPerWord w - 1 - (bytesPerWord w - 1 - q) = q := by omega
    rw [List.getD_reverse _ (by omega), hlen, hback]
  rw [hplace, ← hmirror, ← wordOfBytes_reverse_byte (w := w) bytes.reverse (by omega), List.reverse_reverse]

theorem wordOfBytes_bytesOfWord (hw : w = 8 * bytesPerWord w) (x : Word w) : wordOfBytes w (bytesOfWord x) = x :=
  eq_of_bytes_eq hw fun q hq => by rw [wordOfBytes_byte hw (bytesOfWord_length x) hq, bytesOfWord_getD x hq]

/-! ### Blocks -/

/-- Byte `q` of word `j` stands at place `j*u + q` of the packed Block (R82). -/
theorem pack_getD {x : Block w} {j q : Nat} (hj : j < x.length) (hq : q < bytesPerWord w) :
    (pack x).getD (j * bytesPerWord w + q) 0 = (x.getD j 0).extractLsb' (w - 8 - 8 * q) 8 := by
  induction x generalizing j with
  | nil => simp at hj
  | cons y ys ih =>
    have hpack : pack (y :: ys) = bytesOfWord y ++ pack ys := rfl
    rw [hpack]
    cases j with
    | zero =>
      rw [Nat.zero_mul, Nat.zero_add, List.getD_append _ _ _ _ (by simpa using hq), bytesOfWord_getD y hq,
        List.getD_cons_zero]
    | succ j =>
      have hsub : (j + 1) * bytesPerWord w + q - (bytesOfWord y).length = j * bytesPerWord w + q := by
        rw [bytesOfWord_length, Nat.succ_mul]
        omega
      have hge : (bytesOfWord y).length ≤ (j + 1) * bytesPerWord w + q := by
        rw [bytesOfWord_length, Nat.succ_mul]
        omega
      rw [List.getD_append_right _ _ _ _ hge, hsub, ih (by simpa using hj), List.getD_cons_succ]

/-- The word and the byte in it of a place in a packed Block. -/
theorem byte_place {n k : Nat} (hk : k < blockBytes w n) :
    k / bytesPerWord w < n ∧ k % bytesPerWord w < bytesPerWord w
      ∧ k / bytesPerWord w * bytesPerWord w + k % bytesPerWord w = k := by
  have hu : 0 < bytesPerWord w := Nat.pos_of_mul_pos_left (Nat.zero_lt_of_lt hk)
  exact ⟨Nat.div_lt_of_lt_mul (Nat.mul_comm n _ ▸ hk), Nat.mod_lt k hu, Nat.div_add_mod' k _⟩

/-- The byte at place `k` of the packed Block (R82). -/
theorem pack_byte {x : Block w} {k : Nat} (hk : k < blockBytes w x.length) :
    (pack x).getD k 0 = (x.getD (k / bytesPerWord w) 0).extractLsb' (w - 8 - 8 * (k % bytesPerWord w)) 8 := by
  obtain ⟨hj, hq, hplace⟩ := byte_place hk
  rw [← pack_getD hj hq, hplace]

/-- The bytes of word `j`, as `unpack` reads them. -/
def unpackSlice (w : Nat) (bytes : List Byte) (j : Nat) : List Byte :=
  (List.range (bytesPerWord w)).map fun q => bytes.getD (j * bytesPerWord w + q) 0

@[simp] theorem unpackSlice_length (bytes : List Byte) (j : Nat) :
    (unpackSlice w bytes j).length = bytesPerWord w := by simp [unpackSlice]

theorem unpackSlice_getD (bytes : List Byte) (j : Nat) {q : Nat} (hq : q < bytesPerWord w) :
    (unpackSlice w bytes j).getD q 0 = bytes.getD (j * bytesPerWord w + q) 0 := by simp [unpackSlice, hq]

theorem unpack_getD (bytes : List Byte) {n j : Nat} (hj : j < n) :
    (unpack w n bytes).getD j 0 = wordOfBytes w (unpackSlice w bytes j) := by simp [unpack, unpackSlice, hj]

theorem unpackSlice_pack {x : Block w} {j : Nat} (hj : j < x.length) :
    unpackSlice w (pack x) j = bytesOfWord (x.getD j 0) := by
  refine eq_of_getD_eq 0 (by simp) fun q hq => ?_
  rw [unpackSlice_length] at hq
  rw [unpackSlice_getD _ _ hq, pack_getD hj hq, bytesOfWord_getD _ hq]

theorem unpack_pack (hw : w = 8 * bytesPerWord w) (x : Block w) : unpack w x.length (pack x) = x := by
  refine eq_of_getD_eq 0 (unpack_length ..) fun j hj => ?_
  rw [unpack_length] at hj
  rw [unpack_getD _ hj, unpackSlice_pack hj, wordOfBytes_bytesOfWord hw]

theorem pack_unpack (hw : w = 8 * bytesPerWord w) {n : Nat} {bytes : List Byte} (hlen : bytes.length = blockBytes w n) :
    pack (unpack w n bytes) = bytes := by
  have hpack : (pack (unpack w n bytes)).length = blockBytes w n := by rw [pack_length, unpack_length]
  refine eq_of_getD_eq 0 (hpack.trans hlen.symm) fun k hk => ?_
  obtain ⟨hj, hq, hplace⟩ := byte_place (hpack ▸ hk)
  calc (pack (unpack w n bytes)).getD k 0
      = ((unpack w n bytes).getD (k / bytesPerWord w) 0).extractLsb' (w - 8 - 8 * (k % bytesPerWord w)) 8 := by
        exact pack_byte (by simpa using hpack ▸ hk)
    _ = (unpackSlice w bytes (k / bytesPerWord w)).getD (k % bytesPerWord w) 0 := by
        rw [unpack_getD _ hj, wordOfBytes_byte hw (unpackSlice_length ..) hq]
    _ = bytes.getD k 0 := by rw [unpackSlice_getD _ _ hq, hplace]

end

/-- Settles O28: by the place of each byte (`pack_byte`), and the two inverse laws. -/
theorem packIsBigEndianAndUnpackInvertsIt : Obligations.PackIsBigEndianAndUnpackInvertsIt := by
  intro wd n
  have hw := bits_eq_bytes wd
  refine ⟨?_, fun bytes hlen => pack_unpack hw hlen⟩
  rintro x rfl
  exact ⟨pack_length x, fun k hk => pack_byte hk, unpack_pack hw x⟩

end Sys2Proof.Machine

/-! PROOFS. The register map (20_memory.md R81, R84): an index below 0x100 names a control register, and one above it a word of
the block register whose page of 0x100 indices it lies in. -/

namespace Sys2Proof.Machine

/-- Word `j` of the block register at page `page` of the map (R81). -/
def wordReg : Nat → Nat → RegName
  | 1, j => .blk j
  | 2, j => .nonce j
  | 3, j => .key j
  | 4, j => .pwc j
  | 5, j => .pwtag j
  | _, _ => .unmapped

/-- There is no block register above page 5. -/
theorem wordReg_of_ge {page : Nat} (h : 6 ≤ page) (j : Nat) : wordReg page j = .unmapped := by
  unfold wordReg
  split
  case h_6 => rfl
  all_goals omega

theorem regIndex_wordReg {page j : Nat} (h : wordReg page j ≠ .unmapped) :
    regIndex (wordReg page j) = some (BitVec.ofNat 12 (0x100 * page + j)) := by
  unfold wordReg at h ⊢
  split
  case h_6 => simp at h
  all_goals simp [regIndex, BitVec.ofNat_add]

/-- The control registers end at 0x010 (R81). -/
theorem controlReg_of_ge {j : Nat} (h : 0x011 ≤ j) : controlReg j = .unmapped := by
  unfold controlReg
  split
  case h_18 => rfl
  all_goals omega

theorem regIndex_controlReg {j : Nat} (h : controlReg j ≠ .unmapped) :
    regIndex (controlReg j) = some (BitVec.ofNat 12 j) := by
  unfold controlReg at h ⊢
  split
  case h_18 => simp at h
  all_goals rfl

section
variable {p : Params} {idx : BitVec 12}

theorem regOf_control (h : idx.toNat < 0x100) : regOf p idx = controlReg idx.toNat := by
  simp only [regOf, Nat.div_eq_of_lt h, Nat.mod_eq_of_lt h]

theorem regOf_word (h : 0x100 ≤ idx.toNat) :
    regOf p idx = if idx.toNat % 256 < p.nMax then wordReg (idx.toNat / 256) (idx.toNat % 256) else .unmapped := by
  have hpage : idx.toNat / 256 ≠ 0 := by omega
  unfold regOf wordReg
  split <;> simp_all

/-- Which index a word of a block register has, and that the index names it. -/
theorem regIndex_and_regOf_word {page j : Nat} (hlow : 1 ≤ page) (hhigh : page ≤ 15) (hj : j < p.nMax) (hj' : j < 0x100)
    (hword : wordReg page j ≠ .unmapped) :
    regIndex (wordReg page j) = some (BitVec.ofNat 12 (0x100 * page + j))
      ∧ regOf p (BitVec.ofNat 12 (0x100 * page + j)) = wordReg page j := by
  have hidx : (BitVec.ofNat 12 (0x100 * page + j)).toNat = 0x100 * page + j := toNat_ofNat_of_lt (by omega)
  have hdiv : (0x100 * page + j) / 256 = page := by omega
  have hmod : (0x100 * page + j) % 256 = j := by omega
  refine ⟨regIndex_wordReg hword, ?_⟩
  rw [regOf_word (by omega), hidx, hdiv, hmod, if_pos hj]

/-- The index of a register is the only one that names it. -/
theorem regIndex_regOf (h : regOf p idx ≠ .unmapped) : regIndex (regOf p idx) = some idx := by
  have hself : BitVec.ofNat 12 idx.toNat = idx := by simp
  by_cases hctl : idx.toNat < 0x100
  · rw [regOf_control hctl] at h ⊢
    rw [regIndex_controlReg h, hself]
  · rw [regOf_word (by omega)] at h ⊢
    have hsplit : 0x100 * (idx.toNat / 256) + idx.toNat % 256 = idx.toNat := Nat.div_add_mod ..
    split at h
    case isTrue hj => rw [if_pos hj, regIndex_wordReg h, hsplit, hself]
    case isFalse => simp at h

/-- The indices R84 calls unmapped. -/
theorem regOf_unmapped (h : (0x011 ≤ idx.toNat ∧ idx.toNat ≤ 0x0FF) ∨ 0x5FF < idx.toNat
    ∨ (0x100 ≤ idx.toNat ∧ idx.toNat ≤ 0x5FF ∧ p.nMax ≤ idx.toNat % 256)) : regOf p idx = .unmapped := by
  obtain ⟨hlow, hhigh⟩ | hlow | ⟨hlow, -, hj⟩ := h
  · rw [regOf_control (by omega), controlReg_of_ge hlow]
  · rw [regOf_word (by omega), wordReg_of_ge (by omega), ite_self]
  · rw [regOf_word hlow, if_neg (by omega)]

end

/-- Settles O40: a control register's index is a numeral, a block word's is its page and its number below `N_MAX ≤ 256`. -/
theorem registerMapIsOneToOne : Obligations.RegisterMapIsOneToOne := by
  intro p hp
  have hnMax : p.nMax ≤ 0x100 := by
    simp only [Params.wellFormed, Params.nMaxLegal, Bool.and_eq_true, decide_eq_true_iff] at hp
    omega
  refine ⟨fun r hr => ?_, fun idx => regIndex_regOf⟩
  cases r with
  | unmapped => exact hr.elim
  | blk j => exact regIndex_and_regOf_word (page := 1) (by decide) (by decide) hr (by omega) (by simp [wordReg])
  | nonce j => exact regIndex_and_regOf_word (page := 2) (by decide) (by decide) hr (by omega) (by simp [wordReg])
  | key j => exact regIndex_and_regOf_word (page := 3) (by decide) (by decide) hr (by omega) (by simp [wordReg])
  | pwc j => exact regIndex_and_regOf_word (page := 4) (by decide) (by decide) hr (by omega) (by simp [wordReg])
  | pwtag j => exact regIndex_and_regOf_word (page := 5) (by decide) (by decide) hr (by omega) (by simp [wordReg])
  | _ => exact ⟨rfl, rfl⟩

/-- Settles O41: the index names no register, which reads 0 and takes no write. -/
theorem unmappedIndicesReadZero : Obligations.UnmappedIndicesReadZero := by
  intro s idx v h
  rw [regOf_unmapped h]
  exact ⟨rfl, rfl⟩

end Sys2Proof.Machine

/-! PROOFS. One step of an agent (20_memory.md R91, R93): what a read leaves of the state, which operation a turn of the host or
of the sequencer is, and the step that emits one byte. -/

namespace Sys2Proof.Machine

section
variable {s : State}

/-! ### Reads -/

/-- A read of a block word draws at most a free value (44_control.md R279, log 4). -/
theorem readWord_state (writes : Instr → Bool) (regs : List Reg) (j : Nat) (s : State) :
    (s.readWord writes regs j).2 = { s with free := (s.readWord writes regs j).2.free } := by
  unfold State.readWord
  split <;> rfl

/-- Only `OUTPOP` has a side effect (R87). -/
theorem readReg_state {r : RegName} (hr : r ≠ .outpop) (s : State) :
    (s.readReg r).2 = { s with free := (s.readReg r).2.free } := by
  cases r with
  | outpop => exact absurd rfl hr
  | blkcnt =>
    simp only [State.readReg]
    split <;> rfl
  | blk | nonce | pwc => exact readWord_state ..
  | _ => rfl

/-- A read leaves the words the host has kept. -/
theorem readReg_results (r : RegName) (s : State) : (s.readReg r).2.results = s.results := by
  by_cases hr : r = .outpop
  · subst hr
    match hout : s.outFifo with
    | [] => rw [readReg_outpop_empty hout]
    | b :: out => rw [readReg_outpop_byte hout]
  · rw [readReg_state hr s]

/-! ### A turn of an agent -/

/-- On the sequencer's turn a step is the running command's (R93). -/
theorem step_engine (h : nextTurn s = .engine) : step s = engineTurn s.popTurn := by
  simp only [step, h, takeTurn]

theorem hostTurn_idle (h : s.host = []) : hostTurn s = .next s := by
  simp only [hostTurn, h]

theorem hostTurn_wr {idx : BitVec 12} {v : Reg} {rest : List HostAct} (h : s.host = .wr idx v :: rest) :
    hostTurn s = State.writeReg (regOf s.params idx) v { s with host := rest } := by
  simp only [hostTurn, h]

theorem hostTurn_rd {idx : BitVec 12} {rest : List HostAct} (h : s.host = .rd idx :: rest) :
    hostTurn s = .next (State.hostRead idx { s with host := rest }).2 := by
  simp only [hostTurn, h]

/-- What `RD` leaves: the state after the read, and the value kept (30_encoding.md R126, log 14). -/
theorem hostRead_state (idx : BitVec 12) (s : State) :
    (s.hostRead idx).2 = { (s.readReg (regOf s.params idx)).2 with
      results := .word idx (s.readReg (regOf s.params idx)).1 :: s.results } := by
  simp only [State.hostRead, readReg_results]

/-- A legal `CMD` write while no command runs is its command's meaning (44_control.md R271). -/
theorem writeCmd_legal {v : Reg} {i : Instr} (hb : s.busy = false) (hdec : decode s.params v = .ok i) :
    s.writeCmd v = exec i s := by
  simp [State.writeCmd, hb, hdec]

/-! ### Emitting one byte -/

/-- The step of `emit` (R91): it holds on a full OUT FIFO, and the last byte of the last block completes the command. -/
theorem emitStep_eq (c : Cfg) (work : List Byte → Work) (b : Byte) (out : List Byte) (last : Bool) (s : State) :
    emitStep c work b out last s =
      if s.params.outDepth ≤ s.outFifo.length then s
      else if out = [] ∧ last = true then
        { s with outFifo := s.outFifo ++ [b], outcnt := s.outcnt + 1, err := .none, done := true, seq := .idle }
      else { s with outFifo := s.outFifo ++ [b], outcnt := s.outcnt + 1, seq := .run c (work out) } := by
  by_cases hfull : s.params.outDepth ≤ s.outFifo.length
  · rw [if_pos hfull, emitStep_full work b out last hfull]
  · rw [if_neg hfull, emitStep_room work b out last (by omega)]
    rfl

end

/-- Settles O1: a step is the turn of its agent, and a `CMD` write the write of the register 0x005 names. -/
theorem stepRunsTheDecodedCommand : Obligations.StepRunsTheDecodedCommand := by
  refine ⟨fun s i v rest hturn hhost hb hdec => ?_, fun s c work hturn hs => ?_, fun s hturn => ⟨fun idx v rest hhost => ?_,
    fun idx rest hhost => ?_, fun hhost => ?_⟩⟩
  · have hwrite : step s = State.writeReg .cmd v { s.popTurn with host := rest } :=
      (step_host hturn).trans (hostTurn_wr (s := s.popTurn) hhost)
    exact hwrite.trans (writeCmd_legal (s := { s.popTurn with host := rest }) hb hdec)
  · exact (step_engine hturn).trans (engineTurn_run (s := s.popTurn) hs)
  · exact (step_host hturn).trans (hostTurn_wr (s := s.popTurn) hhost)
  · have hread : step s = .next (State.hostRead idx { s.popTurn with host := rest }).2 :=
      (step_host hturn).trans (hostTurn_rd (s := s.popTurn) hhost)
    exact hread.trans (congrArg _ (hostRead_state ..))
  · exact (step_host hturn).trans (hostTurn_idle (s := s.popTurn) hhost)

/-- Settles O32: `SENC` and `SDEC` emit by the same step (`emitStep_eq`). -/
theorem emitSteps : Obligations.EmitSteps := by
  intro s c buf held b out last
  exact ⟨fun hs => (exec_senc_emit hs).trans (congrArg _ (emitStep_eq ..)),
    fun hs => (exec_sdec_emit hs).trans (congrArg _ (emitStep_eq ..))⟩

/-- Settles O53: by what a read leaves of the state, and the reads of `BLKCNT` and of block words while no command runs. -/
theorem otherReadsHaveNoSideEffect : Obligations.OtherReadsHaveNoSideEffect := by
  intro s r hr
  refine ⟨readReg_state hr s, fun hb => ?_⟩
  have hs := (busy_eq_false_iff s).1 hb
  cases r with
  | outpop => exact absurd rfl hr
  | blkcnt => rw [readReg_blkcnt_idle hs]; exact ⟨rfl, rfl⟩
  | blk | nonce | pwc => simp only [State.readReg, readWord_idle hs, and_self]
  | cfg | ema | kp | kq | sidx | pwtag => exact ⟨rfl, rfl⟩
  | _ => exact ⟨rfl, trivial⟩

end Sys2Proof.Machine

/-! PROOFS. The encodings (30_encoding.md): command words (R110 to R115), the value of `CFG` (R122), IN tokens (R118), and the
host's actions of more than one read (R128, R130). -/

namespace Sys2Proof.Machine

/-! ### Command words -/

/-- The opcode map gives back the command of an opcode (R113). -/
@[simp] theorem ofOpcode_opcode (i : Instr) : ofOpcode i.opcode = some i := by cases i <;> decide

/-- FAMILY alone decides whether a command's encoding is legal (R111). -/
theorem decode_encode (p : Params) (i : Instr) :
    decode p (encode i) = if i.wellFormed p then .ok i else .error .notInFamily := by
  simp [decode]

/-- A reserved bit refuses a word before its opcode is looked at (R112). -/
theorem decode_of_reserved {p : Params} {v : Reg} (h : cmdRsv v ≠ 0) : decode p v = .error .reservedBitsSet :=
  if_pos h

/-- An opcode the map does not list is refused in either FAMILY (R115). -/
theorem decode_of_unassigned {p : Params} {v : Reg} (hrsv : cmdRsv v = 0) (hop : ofOpcode (cmdOp v) = none) :
    decode p v = .error .opcodeUnassigned := by
  simp [decode, hrsv, hop]

/-- Settles O3: a word that decodes is an encoding (`eq_encode_of_decode`), and FAMILY decides which encodings do
(`decode_encode`). -/
theorem decodeAcceptsExactlyTheEncodings : Obligations.DecodeAcceptsExactlyTheEncodings := by
  intro p v i
  constructor
  · intro hdec
    obtain rfl := eq_encode_of_decode hdec
    refine ⟨?_, rfl⟩
    by_contra hwf
    rw [decode_encode, if_neg hwf] at hdec
    cases hdec
  · rintro ⟨hwf, rfl⟩
    rw [decode_encode, if_pos hwf]

/-- Settles O2: six words are encodings of commands their instances have, one of a command its family lacks, and the last two
are none. -/
theorem sampleCommandWordsDecode : Obligations.SampleCommandWordsDecode := by
  have accepts {p : Params} {v : Reg} {i : Instr} (hwf : i.wellFormed p = true) (hv : v = encode i) :
      decode p v = .ok i := (decodeAcceptsExactlyTheEncodings p v i).2 ⟨hwf, hv⟩
  exact ⟨accepts rfl rfl, accepts rfl rfl, accepts rfl rfl, accepts rfl rfl, accepts rfl rfl, accepts rfl rfl,
    decode_encode (Params.withDefaults .w8 .ddr) .mix, decode_of_reserved (by decide),
    decode_of_unassigned (by decide) (by decide)⟩

/-! ### The value of `CFG` -/

/-- The fields of `CFG` shifted to their places do not overlap (R122). -/
theorem Cfg.toBits_eq_or (c : Cfg) :
    c.toBits = (c.rounds.setWidth 64) ||| (c.nwords.setWidth 64 <<< 16)
      ||| ((BitVec.ofBool c.hexkey).setWidth 64 <<< 32) ||| ((BitVec.ofBool c.srot).setWidth 64 <<< 33)
      ||| ((BitVec.ofBool c.pwfull).setWidth 64 <<< 34) ||| ((BitVec.ofBool c.emrot).setWidth 64 <<< 35) := by
  apply BitVec.eq_of_getLsbD_eq
  intro i hi
  simp only [Cfg.toBits, BitVec.getLsbD_append, BitVec.getLsbD_or, BitVec.getLsbD_shiftLeft, BitVec.getLsbD_setWidth,
    BitVec.getLsbD_ofBool]
  grind

/-- Each field of `CFG` stands at its own bits of the value (10_state.md R36). -/
theorem Cfg.ofBits_toBits (c : Cfg) : Cfg.ofBits c.toBits = c := by
  have hcounts : c.toBits.extractLsb' 0 16 = c.rounds ∧ c.toBits.extractLsb' 16 16 = c.nwords := by
    simp (disch := omega) only [Cfg.toBits, BitVec.extractLsb'_append_eq_of_le, BitVec.extractLsb'_append_eq_of_add_le]
    simp
  have hflags : c.toBits.getLsbD 32 = c.hexkey ∧ c.toBits.getLsbD 33 = c.srot ∧ c.toBits.getLsbD 34 = c.pwfull
      ∧ c.toBits.getLsbD 35 = c.emrot := by
    simp only [Cfg.toBits, BitVec.getLsbD_append, BitVec.getLsbD_ofBool]
    simp
  obtain ⟨hrounds, hnwords⟩ := hcounts
  obtain ⟨hhexkey, hsrot, hpwfull, hemrot⟩ := hflags
  simp only [Cfg.ofBits, hrounds, hnwords, hhexkey, hsrot, hpwfull, hemrot]

/-- Settles O44: by the value as a disjunction, and both round trips. -/
theorem cfgValueAssembly : Obligations.CfgValueAssembly :=
  ⟨Cfg.toBits_eq_or, Cfg.toBits_ofBits, Cfg.ofBits_toBits⟩

/-! ### IN tokens -/

/-- What the four values of KIND, bits [9:8], select (R118). -/
theorem tokenOfBits_kinds (v : BitVec 10) :
    (v.extractLsb' 8 2 = 0b00 → tokenOfBits v = .data (v.extractLsb' 0 8))
    ∧ (v.extractLsb' 8 2 = 0b01 → tokenOfBits v = .eof)
    ∧ (v.extractLsb' 8 2 = 0b10 → tokenOfBits v = .err)
    ∧ (v.extractLsb' 8 2 = 0b11 → tokenOfBits v = .reserved) := by
  refine ⟨fun h => ?_, fun h => ?_, fun h => ?_, fun h => ?_⟩ <;> simp [tokenOfBits, h]

/-- The two fields of a data token (R118). -/
theorem tokenBits_data_fields (b : Byte) :
    (tokenBits (.data b)).extractLsb' 8 2 = 0b00 ∧ (tokenBits (.data b)).extractLsb' 0 8 = b := by
  simp (disch := omega) only [tokenBits, BitVec.extractLsb'_append_eq_of_le, BitVec.extractLsb'_append_eq_of_add_le]
  simp

/-- A data token is its byte, zero-extended (R118). -/
theorem tokenBits_data_toNat (b : Byte) : (tokenBits (.data b)).toNat = b.toNat := by
  rw [tokenBits, BitVec.toNat_append]
  simp

theorem tokenOfBits_tokenBits (tok : Token) : tokenOfBits (tokenBits tok) = tok := by
  cases tok with
  | data b =>
    obtain ⟨hkind, hbyte⟩ := tokenBits_data_fields b
    rw [(tokenOfBits_kinds _).1 hkind, hbyte]
  | eof | err | reserved => rfl

/-- Settles O51: by the kinds, and the two fields of a data token for the round trip. -/
theorem tokenFormat : Obligations.TokenFormat :=
  ⟨tokenOfBits_kinds, tokenBits_data_toNat, rfl, rfl, tokenOfBits_tokenBits⟩

/-! ### `POLL` and `DRAIN` -/

section
variable {s : State} {rest : List HostAct}

theorem hostTurn_poll {idx : BitVec 12} {mask value : Reg} (h : s.host = .poll idx mask value :: rest) :
    hostTurn s = .next (s.pollOnce idx mask value rest) := by
  simp only [hostTurn, h]

theorem hostTurn_drain {n : Nat} {got : List Byte} (h : s.host = .drain n got :: rest) :
    hostTurn s = .next (s.drainOnce n got rest) := by
  simp only [hostTurn, h]

/-- One read of `POLL`: kept as an `RD` keeps it, and the action stays until the masked value is the wanted one. -/
theorem pollOnce_eq {idx : BitVec 12} {mask value : Reg} (h : s.host = .poll idx mask value :: rest) :
    s.pollOnce idx mask value rest =
      { (s.readReg (regOf s.params idx)).2 with
        results := .word idx (s.readReg (regOf s.params idx)).1 :: s.results
        host := if (s.readReg (regOf s.params idx)).1 &&& mask = value then rest else s.host } := by
  simp only [State.pollOnce, hostRead_state, h]
  rfl

/-- One read of `DRAIN` that returns a byte, the last of them or not. -/
theorem drainOnce_succ {b : Byte} {out : List Byte} (h : s.outFifo = b :: out) (n : Nat) (got : List Byte)
    (rest : List HostAct) :
    s.drainOnce (n + 1) got rest =
      { s with
        outFifo := out
        host := if n = 0 then rest else .drain n (got ++ [b]) :: rest
        results := if n = 0 then .bytes (got ++ [b]) :: s.results else s.results } := by
  cases n with
  | zero => exact drainOnce_last h got rest
  | succ k => exact drainOnce_byte h k got rest

/-- With the OUT FIFO empty, a `DRAIN` with bytes still to come changes nothing. -/
theorem drainOnce_stays {n : Nat} {got : List Byte} (hhost : s.host = .drain (n + 1) got :: rest) (hout : s.outFifo = []) :
    s.drainOnce (n + 1) got rest = s := by
  rw [drainOnce_empty hout, ← hhost]

end

/-- Settles O56: the host's turn is one access of the action at the head of its program. -/
theorem pollAndDrainRepeatTheirRead : Obligations.PollAndDrainRepeatTheirRead := by
  refine ⟨fun s idx mask value rest hturn hhost => ?_, fun s got rest hturn => ⟨fun hhost => ?_, fun n hhost => ?_⟩⟩
  · have hpoll : step s = .next (s.popTurn.pollOnce idx mask value rest) :=
      (step_host hturn).trans (hostTurn_poll (s := s.popTurn) hhost)
    exact hpoll.trans (congrArg _ (pollOnce_eq (s := s.popTurn) hhost))
  · exact (step_host hturn).trans (hostTurn_drain (s := s.popTurn) hhost)
  · have hdrain : step s = .next (s.popTurn.drainOnce (n + 1) got rest) :=
      (step_host hturn).trans (hostTurn_drain (s := s.popTurn) hhost)
    refine ⟨fun b out hout => ?_, fun hout => ?_⟩
    · exact hdrain.trans (congrArg _ (drainOnce_succ (s := s.popTurn) hout n got rest))
    · exact hdrain.trans (congrArg _ (drainOnce_stays (s := s.popTurn) hhost hout))

end Sys2Proof.Machine

/-! PROOFS. The rotations (40_round_function.md section 1). Each bit of a Word has its place after a left rotation; a right
rotation is a left one, left rotations add up, and they are linear, all from that place. -/

namespace Sys2Proof.Machine

section
variable {w : Nat}

/-- The spec's left rotation is the library's (R141). -/
theorem rotl_eq_rotateLeft (a : Word w) (k : Nat) : rotl a k = a.rotateLeft k := by
  rw [BitVec.rotateLeft_def, rotl]
  split
  case isTrue h => simp [h, BitVec.ushiftRight_eq_zero (Nat.le_refl w)]
  case isFalse => rfl

/-- Bit `i` goes to place `(i + k) mod W`. -/
theorem rotl_getLsbD (a : Word w) (k : Nat) {i : Nat} (hi : i < w) :
    (rotl a k).getLsbD ((i + k) % w) = a.getLsbD i := by
  have hk : k % w < w := Nat.mod_lt k (by omega)
  rw [rotl_eq_rotateLeft, BitVec.getLsbD_rotateLeft, ← Nat.add_mod_mod]
  by_cases hwrap : i + k % w < w
  · have hplace : i + k % w - k % w = i := by omega
    simp [Nat.mod_eq_of_lt hwrap, hwrap, hplace]
  · have hmod : (i + k % w) % w = i + k % w - w := by
      rw [Nat.mod_eq_sub_mod (by omega), Nat.mod_eq_of_lt (by omega)]
    have hlow : i + k % w - w < k % w := by omega
    have hplace : w - k % w + (i + k % w - w) = i := by omega
    simp [hmod, hlow, hplace]

/-- The places `(i + k) mod W` are all the places of a Word. -/
theorem eq_of_shifted_bits {x y : Word w} (k : Nat)
    (h : ∀ i < w, x.getLsbD ((i + k) % w) = y.getLsbD ((i + k) % w)) : x = y := by
  apply BitVec.eq_of_getLsbD_eq
  intro j hj
  have hk : k % w < w := Nat.mod_lt k (by omega)
  have hplace : ((j + (w - k % w)) % w + k) % w = j := by
    rw [Nat.mod_add_mod, ← Nat.add_mod_mod, (by omega : j + (w - k % w) + k % w = j + w), Nat.add_mod_right,
      Nat.mod_eq_of_lt hj]
  simpa only [hplace] using h ((j + (w - k % w)) % w) (Nat.mod_lt _ (by omega))

theorem rotl_of_mod_eq_zero (a : Word w) {k : Nat} (h : k % w = 0) : rotl a k = a := if_pos h

theorem rotl_rotl (a : Word w) (j k : Nat) : rotl (rotl a j) k = rotl a (j + k) := by
  apply eq_of_shifted_bits (j + k)
  intro i hi
  rw [rotl_getLsbD a (j + k) hi, ← Nat.add_assoc, ← Nat.mod_add_mod,
    rotl_getLsbD _ k (Nat.mod_lt _ (by omega)), rotl_getLsbD a j hi]

/-- The right rotation is a left one also by the amounts R142 sets apart. -/
theorem rotr_eq_rotl (a : Word w) (k : Nat) : rotr a k = rotl a (w - k % w) := by
  rw [rotr]
  split
  case isTrue h => rw [rotl_of_mod_eq_zero a (by simp [h])]
  case isFalse => rfl

/-- The amounts of a rotation and of its inverse add up to whole turns. -/
theorem rotl_whole_turns (a : Word w) (k : Nat) : rotl a (k + (w - k % w)) = a := by
  rcases Nat.eq_zero_or_pos w with rfl | hw
  · exact Subsingleton.elim _ _
  · have hk : k % w < w := Nat.mod_lt k hw
    apply rotl_of_mod_eq_zero
    rw [← Nat.mod_add_mod, (by omega : k % w + (w - k % w) = w), Nat.mod_self]

theorem rotr_rotl (a : Word w) (k : Nat) : rotr (rotl a k) k = a := by
  rw [rotr_eq_rotl, rotl_rotl, rotl_whole_turns]

theorem rotl_rotr (a : Word w) (k : Nat) : rotl (rotr a k) k = a := by
  rw [rotr_eq_rotl, rotl_rotl, Nat.add_comm, rotl_whole_turns]

theorem rotl_xor (x y : Word w) (k : Nat) : rotl (x ^^^ y) k = rotl x k ^^^ rotl y k := by
  apply eq_of_shifted_bits k
  intro i hi
  simp only [BitVec.getLsbD_xor, rotl_getLsbD _ k hi]

theorem rotr_xor (x y : Word w) (k : Nat) : rotr (x ^^^ y) k = rotr x k ^^^ rotr y k := by
  simp only [rotr_eq_rotl, rotl_xor]

end

/-- Settles O7: the shifts are the definitions' own; the place of a bit is `rotl_getLsbD`, the inverse `rotr_rotl`. -/
theorem rotrUndoesRotl : Obligations.RotrUndoesRotl := by
  intro w a k
  refine ⟨rfl, fun i hi => rotl_getLsbD a k hi, ?_, rotr_rotl a k⟩
  rw [rotr, ite_not]

end Sys2Proof.Machine

/-! PROOFS. The EM family (40_round_function.md section 2). A round is two passes along the Block; a pass taken back in the
opposite order is undone, and each of its words is given once, in terms of the pass's own result. Every pass is affine
because `f` is. -/

namespace Sys2Proof.Machine

section
variable {w : Nat}

/-! ### Words of a Block -/

theorem block_getD_set_self {b : Block w} {k : Nat} (hk : k < b.length) (u : Word w) : (b.set k u).getD k 0 = u := by
  simp [hk]

theorem block_getD_set_ne {b : Block w} {j k : Nat} (h : j ≠ k) (u : Word w) : (b.set k u).getD j 0 = b.getD j 0 := by
  simp [List.getElem?_set_ne h.symm]

/-- A word written and then given its old value back. -/
theorem set_set_eq_self {b : Block w} {k : Nat} {u v : Word w} (h : k < b.length → v = b.getD k 0) :
    (b.set k u).set k v = b := by
  rw [List.set_set]
  by_cases hk : k < b.length
  · rw [h hk, List.getD_eq_getElem b 0 hk, List.set_getElem_self]
  · exact List.set_eq_of_length_le (by omega)

theorem xorBlock_getD {x y : Block w} (h : x.length = y.length) (j : Nat) :
    (xorBlock x y).getD j 0 = x.getD j 0 ^^^ y.getD j 0 := by
  by_cases hj : j < x.length
  · have hj' : j < y.length := h ▸ hj
    simp [xorBlock, hj, hj']
  · have hj' : ¬j < y.length := h ▸ hj
    simp [xorBlock, hj, hj']

theorem xorBlock_set (x y : Block w) (k : Nat) (u v : Word w) :
    xorBlock (x.set k u) (y.set k v) = (xorBlock x y).set k (u ^^^ v) := by
  apply List.ext_getElem (by simp)
  intro j _ _
  simp only [xorBlock, List.getElem_zipWith, List.getElem_set]
  split <;> rfl

theorem xorBlock_xorBlock_self {x y : Block w} (h : x.length = y.length) : xorBlock (xorBlock x y) y = x := by
  refine eq_of_getD_eq 0 (by simp [h]) fun j _ => ?_
  rw [xorBlock_getD (by simp [h]), xorBlock_getD h, xor_cancel_right]

/-! ### Folds of invertible steps -/

/-- Steps that undo one another, taken back in the opposite order. -/
theorem foldl_reverse_foldl {α β : Type} {f g : β → α → β} (h : ∀ b i, g (f b i) i = b) (l : List α) (b : β) :
    l.reverse.foldl g (l.foldl f b) = b := by
  induction l generalizing b with
  | nil => rfl
  | cons i l ih => simp only [List.reverse_cons, List.foldl_append, List.foldl_cons, List.foldl_nil, ih, h]

/-- As `foldl_reverse_foldl`, with the opposite order first. -/
theorem foldl_foldl_reverse {α β : Type} {f g : β → α → β} (h : ∀ b i, g (f b i) i = b) (l : List α) (b : β) :
    l.foldl g (l.reverse.foldl f b) = b := by
  simpa only [List.reverse_reverse] using foldl_reverse_foldl h l.reverse b

/-! ### Passes -/

variable {e : Bool} {a : Word w}

theorem emXorInto_emXorInto {dst src : Nat} (h : src ≠ dst) (b : Block w) :
    emXorInto e a dst src (emXorInto e a dst src b) = b := by
  apply set_set_eq_self
  intro hk
  rw [emXorInto, block_getD_set_self hk, block_getD_set_ne h, xor_cancel_right]

/-- A pass of an EM round (R145, R146): for each `j` of `l` in turn, word `dst j` takes `f` of word `src j`. -/
def emPass (e : Bool) (a : Word w) (dst src : Nat → Nat) (l : List Nat) (x : Block w) : Block w :=
  l.foldl (fun b j => emXorInto e a (dst j) (src j) b) x

theorem emRound_eq_passes (n : Nat) (x : Block w) :
    emRound e a n x
      = emPass e a id (· + 1) (List.range (n - 1)).reverse (emPass e a (· + 1) id (List.range (n - 1)) x) := rfl

theorem emUnround_eq_passes (n : Nat) (x : Block w) :
    emUnround e a n x
      = emPass e a (· + 1) id (List.range (n - 1)).reverse (emPass e a id (· + 1) (List.range (n - 1)) x) := rfl

section
variable {dst src : Nat → Nat}

theorem emPass_cons (j : Nat) (l : List Nat) (x : Block w) :
    emPass e a dst src (j :: l) x = emPass e a dst src l (emXorInto e a (dst j) (src j) x) := rfl

@[simp] theorem emPass_length (l : List Nat) (x : Block w) : (emPass e a dst src l x).length = x.length :=
  foldl_length _ (fun b j => emXorInto_length e a (dst j) (src j) b) l x

theorem emPass_reverse_emPass (hne : ∀ j, src j ≠ dst j) (l : List Nat) (x : Block w) :
    emPass e a dst src l.reverse (emPass e a dst src l x) = x :=
  foldl_reverse_foldl (fun b j => emXorInto_emXorInto (hne j) b) l x

theorem emPass_emPass_reverse (hne : ∀ j, src j ≠ dst j) (l : List Nat) (x : Block w) :
    emPass e a dst src l (emPass e a dst src l.reverse x) = x :=
  foldl_foldl_reverse (fun b j => emXorInto_emXorInto (hne j) b) l x

/-- A word that is no step's target stays. -/
theorem emPass_getD_of_ne {l : List Nat} {i : Nat} (h : ∀ j ∈ l, i ≠ dst j) (x : Block w) :
    (emPass e a dst src l x).getD i 0 = x.getD i 0 := by
  induction l generalizing x with
  | nil => rfl
  | cons j l ih =>
    obtain ⟨hj, hl⟩ := List.forall_mem_cons.1 h
    rw [emPass_cons, ih hl, emXorInto, block_getD_set_ne hj]

/-- When no step changes what an earlier one read or wrote, each target is its old word with `f` of its source's result. -/
theorem emPass_getD_dst (hne : ∀ j, src j ≠ dst j) {l : List Nat}
    (hl : l.Pairwise (fun i j => dst i ≠ dst j ∧ src i ≠ dst j)) {j : Nat} (hj : j ∈ l) {x : Block w}
    (hx : dst j < x.length) :
    (emPass e a dst src l x).getD (dst j) 0
      = x.getD (dst j) 0 ^^^ emF e a ((emPass e a dst src l x).getD (src j) 0) := by
  induction l generalizing x with
  | nil => cases hj
  | cons i l ih =>
    obtain ⟨hi, hl⟩ := List.pairwise_cons.1 hl
    rw [emPass_cons]
    rcases List.mem_cons.1 hj with rfl | hj
    · rw [emPass_getD_of_ne fun k hk => (hi k hk).1, emPass_getD_of_ne fun k hk => (hi k hk).2, emXorInto,
        block_getD_set_self hx, block_getD_set_ne (hne j)]
    · rw [ih hl hj (by simpa using hx), emXorInto, block_getD_set_ne (hi j hj).1.symm]

end

/-- Pass 1 of R145: each word takes its left neighbour's new value. -/
theorem emPass_ascending_words {n : Nat} {x : Block w} (hx : x.length = n) :
    let y := emPass e a (· + 1) id (List.range (n - 1)) x
    y.getD 0 0 = x.getD 0 0 ∧ ∀ j, j + 1 < n → y.getD (j + 1) 0 = x.getD (j + 1) 0 ^^^ emF e a (y.getD j 0) := by
  have hpairs : (List.range (n - 1)).Pairwise (fun i j => i + 1 ≠ j + 1 ∧ i ≠ j + 1) :=
    List.pairwise_lt_range.imp fun h => by omega
  refine ⟨emPass_getD_of_ne (by simp) x, fun j hj => ?_⟩
  exact emPass_getD_dst (src := id) (by simp) hpairs (List.mem_range.2 (by omega)) (by omega)

/-- Pass 2 of R145: each word takes its right neighbour's new value. -/
theorem emPass_descending_words {n : Nat} {x : Block w} (hx : x.length = n) :
    let y := emPass e a id (· + 1) (List.range (n - 1)).reverse x
    y.getD (n - 1) 0 = x.getD (n - 1) 0
      ∧ ∀ j, j + 1 < n → y.getD j 0 = x.getD j 0 ^^^ emF e a (y.getD (j + 1) 0) := by
  have hmem : ∀ j, j ∈ (List.range (n - 1)).reverse ↔ j < n - 1 := by simp
  have hpairs : (List.range (n - 1)).reverse.Pairwise (fun i j => i ≠ j ∧ i + 1 ≠ j) :=
    List.pairwise_reverse.2 (List.pairwise_lt_range.imp fun h => by omega)
  refine ⟨emPass_getD_of_ne (fun j hj => ((hmem j).1 hj).ne') x, fun j hj => ?_⟩
  have hj' : j < x.length := by omega
  exact emPass_getD_dst (dst := id) (by simp) hpairs ((hmem j).2 (by omega)) hj'

/-- Pass 2 undone (R146): each word takes its right neighbour's old value. -/
theorem emPass_ascending_undone_words {n : Nat} {x : Block w} (hx : x.length = n) :
    let y := emPass e a id (· + 1) (List.range (n - 1)) x
    y.getD (n - 1) 0 = x.getD (n - 1) 0
      ∧ ∀ j, j + 1 < n → y.getD j 0 = x.getD j 0 ^^^ emF e a (x.getD (j + 1) 0) := by
  have hpass := emPass_descending_words (x := emPass e a id (· + 1) (List.range (n - 1)) x) (e := e) (a := a)
    ((emPass_length _ x).trans hx)
  rw [emPass_reverse_emPass (by simp)] at hpass
  obtain ⟨hlast, hdown⟩ := hpass
  exact ⟨hlast.symm, fun j hj => by rw [hdown j hj, xor_cancel_right]⟩

/-- Pass 1 undone (R146): each word takes its left neighbour's old value. -/
theorem emPass_descending_undone_words {n : Nat} {x : Block w} (hx : x.length = n) :
    let y := emPass e a (· + 1) id (List.range (n - 1)).reverse x
    y.getD 0 0 = x.getD 0 0 ∧ ∀ j, j + 1 < n → y.getD (j + 1) 0 = x.getD (j + 1) 0 ^^^ emF e a (x.getD j 0) := by
  have hpass := emPass_ascending_words (x := emPass e a (· + 1) id (List.range (n - 1)).reverse x) (e := e) (a := a)
    ((emPass_length _ x).trans hx)
  rw [emPass_emPass_reverse (by simp)] at hpass
  obtain ⟨hfirst, hup⟩ := hpass
  exact ⟨hfirst.symm, fun j hj => by rw [hup j hj, xor_cancel_right]⟩

/-! ### Rounds -/

theorem emUnround_emRound (n : Nat) (x : Block w) : emUnround e a n (emRound e a n x) = x := by
  rw [emUnround_eq_passes, emRound_eq_passes, emPass_emPass_reverse (by simp), emPass_reverse_emPass (by simp)]

theorem emRound_emUnround (n : Nat) (x : Block w) : emRound e a n (emUnround e a n x) = x := by
  rw [emUnround_eq_passes, emRound_eq_passes, emPass_emPass_reverse (by simp), emPass_reverse_emPass (by simp)]

/-- R145 word by word. -/
theorem emRound_words {n : Nat} {x : Block w} (hx : x.length = n) :
    ∃ y : Block w, y.length = n ∧ y.getD 0 0 = x.getD 0 0
      ∧ (∀ j, j + 1 < n → y.getD (j + 1) 0 = x.getD (j + 1) 0 ^^^ emF e a (y.getD j 0))
      ∧ (emRound e a n x).length = n ∧ (emRound e a n x).getD (n - 1) 0 = y.getD (n - 1) 0
      ∧ ∀ j, j + 1 < n → (emRound e a n x).getD j 0 = y.getD j 0 ^^^ emF e a ((emRound e a n x).getD (j + 1) 0) := by
  obtain ⟨hfirst, hup⟩ := emPass_ascending_words (e := e) (a := a) hx
  exact ⟨_, by simp [hx], hfirst, hup, by simp [hx], emPass_descending_words ((emPass_length _ x).trans hx)⟩

/-- R146 word by word. -/
theorem emUnround_words {n : Nat} {x : Block w} (hx : x.length = n) :
    ∃ y : Block w, y.length = n ∧ y.getD (n - 1) 0 = x.getD (n - 1) 0
      ∧ (∀ j, j + 1 < n → y.getD j 0 = x.getD j 0 ^^^ emF e a (x.getD (j + 1) 0))
      ∧ (emUnround e a n x).length = n ∧ (emUnround e a n x).getD 0 0 = y.getD 0 0
      ∧ ∀ j, j + 1 < n → (emUnround e a n x).getD (j + 1) 0 = y.getD (j + 1) 0 ^^^ emF e a (y.getD j 0) := by
  obtain ⟨hlast, hdown⟩ := emPass_ascending_undone_words (e := e) (a := a) hx
  exact ⟨_, by simp [hx], hlast, hdown, by simp [hx], emPass_descending_undone_words ((emPass_length _ x).trans hx)⟩

theorem emMix_eq_iterate (n k : Nat) (x : Block w) : emMix e a n k x = (emRound e a n)^[k] x := by
  induction k with
  | zero => rfl
  | succ k ih => rw [emMix, ih, Function.iterate_succ_apply']

theorem emUnmix_eq_iterate (n k : Nat) (x : Block w) : emUnmix e a n k x = (emUnround e a n)^[k] x := by
  induction k with
  | zero => rfl
  | succ k ih => rw [emUnmix, ih, Function.iterate_succ_apply']

theorem emUnmix_emMix (n k : Nat) (x : Block w) : emUnmix e a n k (emMix e a n k x) = x := by
  have hround : Function.LeftInverse (emUnround e a n) (emRound e a n) := emUnround_emRound n
  rw [emMix_eq_iterate, emUnmix_eq_iterate, hround.iterate]

theorem emMix_emUnmix (n k : Nat) (x : Block w) : emMix e a n k (emUnmix e a n k x) = x := by
  have hunround : Function.LeftInverse (emRound e a n) (emUnround e a n) := emRound_emUnround n
  rw [emMix_eq_iterate, emUnmix_eq_iterate, hunround.iterate]

/-! ### Affine functions -/

theorem emF_false (x : Word w) : emF false a x = (x <<< 1) ^^^ x ^^^ (x >>> 1) ^^^ a := rfl

theorem emF_true (x : Word w) : emF true a x = rotl x 1 ^^^ x ^^^ rotr x 1 ^^^ a := rfl

/-- The terms of `f` but the constant are linear. -/
theorem emF_xor (x y : Word w) : emF e a (x ^^^ y) = emF e a x ^^^ emF e a y ^^^ a := by
  cases e with
  | false =>
    simp only [emF_false, BitVec.shiftLeft_xor_distrib, BitVec.ushiftRight_xor_distrib]
    rw [BitVec.xor_assoc (_ ^^^ a), xor_cancel_right]
    ac_rfl
  | true =>
    simp only [emF_true, rotl_xor, rotr_xor]
    rw [BitVec.xor_assoc (_ ^^^ a), xor_cancel_right]
    ac_rfl

theorem emF_xor_xor (x y z : Word w) : emF e a (x ^^^ y ^^^ z) = emF e a x ^^^ emF e a y ^^^ emF e a z := by
  rw [emF_xor, emF_xor, BitVec.xor_assoc _ (emF e a z), BitVec.xor_comm (emF e a z), ← BitVec.xor_assoc,
    xor_cancel_right]

/-- A function on Blocks of `n` Words that is affine over GF(2) (R148): it maps the exclusive-or of three Blocks to that of
their values. -/
structure AffineOn (n : Nat) (g : Block w → Block w) : Prop where
  length : ∀ x, x.length = n → (g x).length = n
  map_xor : ∀ x y z, x.length = n → y.length = n → z.length = n →
    g (xorBlock (xorBlock x y) z) = xorBlock (xorBlock (g x) (g y)) (g z)

theorem affineOn_id (n : Nat) : AffineOn n (fun x : Block w => x) := ⟨fun _ hx => hx, fun _ _ _ _ _ _ => rfl⟩

theorem AffineOn.comp {n : Nat} {g h : Block w → Block w} (hg : AffineOn n g) (hh : AffineOn n h) :
    AffineOn n (fun x => g (h x)) where
  length x hx := hg.length _ (hh.length x hx)
  map_xor x y z hx hy hz := by
    rw [hh.map_xor x y z hx hy hz, hg.map_xor _ _ _ (hh.length x hx) (hh.length y hy) (hh.length z hz)]

theorem AffineOn.foldl {n : Nat} {f : Block w → Nat → Block w} (h : ∀ j, AffineOn n (f · j)) (l : List Nat) :
    AffineOn n (fun x => l.foldl f x) := by
  induction l with
  | nil => exact affineOn_id n
  | cons j l ih => exact ih.comp (h j)

theorem affineOn_emXorInto (n dst src : Nat) : AffineOn n (emXorInto e a dst src) where
  length x hx := by simp [hx]
  map_xor x y z hx hy hz := by
    have hxy : x.length = y.length := hx.trans hy.symm
    have hxyz : (xorBlock x y).length = z.length := by simp [hx, hy, hz]
    simp only [emXorInto, xorBlock_set, xorBlock_getD hxyz, xorBlock_getD hxy, emF_xor_xor]
    ac_rfl

theorem affineOn_emRound (n : Nat) : AffineOn n (emRound e a n) :=
  (AffineOn.foldl (fun j => affineOn_emXorInto n j (j + 1)) _).comp
    (AffineOn.foldl (fun j => affineOn_emXorInto n (j + 1) j) _)

theorem affineOn_emMix (n k : Nat) : AffineOn n (emMix e a n k) := by
  induction k with
  | zero => exact affineOn_id n
  | succ k ih => exact (affineOn_emRound n).comp ih

theorem affineOn_xorBlock {n : Nat} {key : Block w} (hkey : key.length = n) : AffineOn n (xorBlock · key) where
  length x hx := by simp [hx, hkey]
  map_xor x y z hx hy hz := by
    refine eq_of_getD_eq 0 (by simp [hx, hy, hz, hkey]) fun j _ => ?_
    simp only [xorBlock_getD, xorBlock_length, hx, hy, hz, hkey, Nat.min_self]
    grind

theorem affineOn_emEncrypt {n : Nat} (k : Nat) {key : Block w} (hkey : key.length = n) :
    AffineOn n (emEncrypt e a n k key) :=
  (affineOn_xorBlock hkey).comp ((affineOn_emMix n k).comp (affineOn_xorBlock hkey))

end

/-- Settles O8: `round`, `Mix` and `E` are compositions of affine steps. -/
theorem emFunctionsAreAffine : Obligations.EmFunctionsAreAffine := by
  intro w n k e a
  refine ⟨fun x => ⟨emF_false x, emF_true x⟩, emF_xor, fun x y z key hx hy hz hkey => ⟨?_, ?_, ?_⟩⟩
  · exact (affineOn_emRound n).map_xor x y z hx hy hz
  · exact (affineOn_emMix n k).map_xor x y z hx hy hz
  · exact (affineOn_emEncrypt k hkey).map_xor x y z hx hy hz

/-- Settles O9: each pass is its own inverse taken in the opposite order, and is read word by word. -/
theorem unroundUndoesRound : Obligations.UnroundUndoesRound := by
  intro w n e a x
  exact ⟨emUnround_emRound n x, emRound_emUnround n x, fun hx => ⟨emRound_words hx, emUnround_words hx⟩⟩

/-- Settles O10: the iteration clauses are the definitions' own, the inverse is `emUnmix_emMix`. -/
theorem unmixUndoesMix : Obligations.UnmixUndoesMix := by
  intro w n e a x k
  exact ⟨rfl, rfl, rfl, rfl, emUnmix_emMix n k x⟩

end Sys2Proof.Machine

/-! PROOFS. The DDR family (40_round_function.md section 3) and the keyed block functions of both families (section 4): each
is a chain of invertible steps, and its inverse takes them back in the opposite order. -/

namespace Sys2Proof.Machine

section
variable {w : Nat}

/-! ### Micro-steps -/

/-- A micro-step's two words are two words, from `N = 2` on. -/
theorem succ_mod_ne_mod {n : Nat} (hn : 2 ≤ n) (i : Nat) : (i + 1) % n ≠ i % n := by
  rw [succ_mod_eq (by omega)]
  split <;> omega

theorem ddrUnstep_ddrStep {n : Nat} (hn : 2 ≤ n) (sched b : Block w) (i : Nat) :
    ddrUnstep n sched (ddrStep n sched b i) i = b := by
  apply set_set_eq_self
  intro hk
  rw [ddrStep, block_getD_set_self hk, block_getD_set_ne (succ_mod_ne_mod hn i), BitVec.add_sub_cancel, rotr_rotl,
    xor_cancel_right]

theorem ddrStep_ddrUnstep {n : Nat} (hn : 2 ≤ n) (sched b : Block w) (i : Nat) :
    ddrStep n sched (ddrUnstep n sched b i) i = b := by
  apply set_set_eq_self
  intro hk
  rw [ddrUnstep, block_getD_set_self hk, block_getD_set_ne (succ_mod_ne_mod hn i), xor_cancel_right, rotl_rotr,
    BitVec.sub_add_cancel]

/-! ### Key additions -/

theorem subAt_addAt (j : Nat) (x : Word w) (b : Block w) : subAt j x (addAt j x b) = b := by
  apply set_set_eq_self
  intro hj
  rw [addAt, block_getD_set_self hj, BitVec.add_sub_cancel]

theorem addAt_subAt (j : Nat) (x : Word w) (b : Block w) : addAt j x (subAt j x b) = b := by
  apply set_set_eq_self
  intro hj
  rw [subAt, block_getD_set_self hj, BitVec.sub_add_cancel]

/-! ### The keyed block functions -/

theorem ddrDecrypt_ddrEncrypt {n : Nat} (hn : 2 ≤ n) (r : Nat) (sched x : Block w) :
    ddrDecrypt r n sched (ddrEncrypt r n sched x) = x := by
  rw [ddrDecrypt, ddrEncrypt, subAt_addAt, foldl_reverse_foldl (ddrUnstep_ddrStep hn sched), subAt_addAt]

theorem ddrEncrypt_ddrDecrypt {n : Nat} (hn : 2 ≤ n) (r : Nat) (sched x : Block w) :
    ddrEncrypt r n sched (ddrDecrypt r n sched x) = x := by
  rw [ddrDecrypt, ddrEncrypt, addAt_subAt, foldl_foldl_reverse (ddrStep_ddrUnstep hn sched), addAt_subAt]

theorem emDecrypt_emEncrypt (e : Bool) (a : Word w) (n k : Nat) {key x : Block w} (h : x.length = key.length) :
    emDecrypt e a n k key (emEncrypt e a n k key x) = x := by
  rw [emDecrypt, emEncrypt, xorBlock_xorBlock_self (by simp [h]), emUnmix_emMix, xorBlock_xorBlock_self h]

theorem emEncrypt_emDecrypt (e : Bool) (a : Word w) (n k : Nat) {key x : Block w} (h : x.length = key.length) :
    emEncrypt e a n k key (emDecrypt e a n k key x) = x := by
  rw [emDecrypt, emEncrypt, xorBlock_xorBlock_self (by simp [h]), emMix_emUnmix, xorBlock_xorBlock_self h]

theorem decryptBlock_encryptBlock {c : CipherCtx w} {x : Block w} (hn : 2 ≤ c.n) (h : x.length = c.key.length) :
    decryptBlock c (encryptBlock c x) = x := by
  cases hf : c.family with
  | em => simp only [decryptBlock, encryptBlock, hf, emDecrypt_emEncrypt _ _ _ _ h]
  | ddr => simp only [decryptBlock, encryptBlock, hf, ddrDecrypt_ddrEncrypt hn]

theorem encryptBlock_decryptBlock {c : CipherCtx w} {x : Block w} (hn : 2 ≤ c.n) (h : x.length = c.key.length) :
    encryptBlock c (decryptBlock c x) = x := by
  cases hf : c.family with
  | em => simp only [decryptBlock, encryptBlock, hf, emEncrypt_emDecrypt _ _ _ _ h]
  | ddr => simp only [decryptBlock, encryptBlock, hf, ddrEncrypt_ddrDecrypt hn]

end

/-- Settles O11: a micro-step is one write, at a place other than the one that drives it (`succ_mod_ne_mod`). -/
theorem ddrStepAndItsInverse : Obligations.DdrStepAndItsInverse := by
  intro w n sched b i hn hb
  have hk : i % n < b.length := hb ▸ Nat.mod_lt i (by omega)
  exact ⟨List.length_set.trans hb, block_getD_set_self hk _, fun j hj => block_getD_set_ne hj _,
    block_getD_set_self hk _, fun j hj => block_getD_set_ne hj _, ddrUnstep_ddrStep hn sched b i⟩

/-- Settles O12, family by family (`decryptBlock_encryptBlock`, `encryptBlock_decryptBlock`). -/
theorem decryptUndoesEncrypt : Obligations.DecryptUndoesEncrypt := by
  intro w c x hn hx hkey
  have hlen : x.length = c.key.length := hx.trans hkey.symm
  exact ⟨decryptBlock_encryptBlock hn hlen, encryptBlock_decryptBlock hn hlen⟩

end Sys2Proof.Machine

/-! PROOFS. The commands of the Round Function (40_round_function.md section 5): each stores one Block into `BLK[0 .. N-1]`
and completes. -/

namespace Sys2Proof.Machine

section
variable {s : State} {c : Cfg}

/-- What a command that stores a Block to `BLK` and completes does (10_state.md R51, 60_exceptions.md R296). -/
theorem setBlk_complete_effect {b : Block s.params.bits} {n : Nat} (hb : b.length = n) (hn : n ≤ s.blk.length) :
    let t := (s.setBlk b).complete .none
    t = { s with blk := t.blk, err := .none, done := true, seq := .idle }
      ∧ t.blk.length = s.blk.length ∧ loadBlock s.params.bits n t.blk = b
      ∧ ∀ j, n ≤ j → t.blk.getD j 0 = s.blk.getD j 0 :=
  ⟨rfl, storeBlock_length b s.blk, loadBlock_storeBlock (bits_le s.params.width) b s.blk hb hn,
    fun j hj => storeBlock_getD_ge b s.blk j (hb.trans_le hj)⟩

/-- A Block stored, loaded again and mapped back to the words first held there, restores a block register. -/
theorem storeBlock_restores {w n : Nat} (hw : w ≤ 64) {regs : List Reg} (hfit : WordsFit w regs) (hn : n ≤ regs.length)
    {b : Block w} (hb : b.length = n) {g : Block w → Block w} (hg : g b = loadBlock w n regs) :
    storeBlock (g (loadBlock w n (storeBlock b regs))) (storeBlock b regs) = regs := by
  rw [loadBlock_storeBlock hw b regs hb hn, hg]
  exact storeBlock_loadBlock regs hfit _ (storeBlock_length b regs) fun j hj =>
    storeBlock_getD_ge b regs j (hb.trans_le hj)

@[simp] theorem blkBlock_length (c : Cfg) (s : State) : (s.blkBlock c).length = c.n := loadBlock_length ..

theorem encryptBlock_blk_length (c : Cfg) (s : State) : (encryptBlock (s.cipher c) (s.blkBlock c)).length = c.n := by
  rw [encryptBlock_length] <;> simp

theorem decryptBlock_blk_length (c : Cfg) (s : State) : (decryptBlock (s.cipher c) (s.blkBlock c)).length = c.n := by
  rw [decryptBlock_length] <;> simp

/-- A running command that needs a valid `CFG` works on Blocks of 2 to `N_MAX` Words (R40). -/
theorem State.Inv.blockSize (h : s.Inv) {work : Work} (hs : s.seq = .run c work) (hn : needsCfg work.op = true) :
    2 ≤ c.n ∧ c.n ≤ s.blk.length := by
  obtain ⟨-, ⟨hlow, hhigh⟩, -⟩ := (cfgValid_iff _ _).1 ((h.running hs).valid hn).1
  exact ⟨hlow, hhigh.trans_eq h.data.blk.1.symm⟩

end

/-- Settles O13: `Mix` and `Unmix` give Blocks of `N` Words, which `setBlk_complete_effect` stores. -/
theorem mixAndUnmixTransformBlk : Obligations.MixAndUnmixTransformBlk := by
  intro s c hn
  exact ⟨fun hs => ⟨_, exec_mix_run hs, setBlk_complete_effect (by simp) hn⟩,
    fun hs => ⟨_, exec_unmix_run hs, setBlk_complete_effect (by simp) hn⟩⟩

/-- Settles O14: `E` and `D` written out are the keyed block functions of the state, family by family. -/
theorem bencAndBdecTransformBlk : Obligations.BencAndBdecTransformBlk := by
  intro s c hn
  refine ⟨fun hs => ?_, fun hs => ?_⟩
  · obtain ⟨hframe, hlen, hblk, habove⟩ := setBlk_complete_effect (encryptBlock_blk_length c s) hn
    refine ⟨_, exec_benc_run hs, hframe, hlen, hblk.trans ?_, habove⟩
    cases hf : s.params.family <;> simp only [encryptBlock, State.cipher, hf] <;> rfl
  · obtain ⟨hframe, hlen, hblk, habove⟩ := setBlk_complete_effect (decryptBlock_blk_length c s) hn
    refine ⟨_, exec_bdec_run hs, hframe, hlen, hblk.trans ?_, habove⟩
    cases hf : s.params.family <;> simp only [decryptBlock, State.cipher, hf] <;> rfl

/-- Settles O15: the second command loads what the first one stored, and stores back what the first one loaded. -/
theorem inverseCommandsRestoreBlk : Obligations.InverseCommandsRestoreBlk := by
  intro s c hinv
  have hw := bits_le s.params.width
  have hfit := hinv.data.blk.2
  refine ⟨fun hs => ?_, fun hs => ?_⟩
  · obtain ⟨hlow, hhigh⟩ := hinv.blockSize hs rfl
    have hundo := decryptBlock_encryptBlock (c := s.cipher c) (x := s.blkBlock c) hlow (by simp)
    exact ⟨_, _, exec_benc_run hs, exec_bdec_run rfl,
      storeBlock_restores hw hfit hhigh (encryptBlock_blk_length c s) hundo⟩
  · obtain ⟨-, hhigh⟩ := hinv.blockSize hs rfl
    exact ⟨_, _, exec_mix_run hs, exec_unmix_run rfl,
      storeBlock_restores hw hfit hhigh (by simp) (emUnmix_emMix c.n c.r (s.blkBlock c))⟩

end Sys2Proof.Machine

/-! PROOFS. The key schedule's own functions (41_key_schedule.md section 1): a Block stored and loaded again, the final chunks of
an empty passphrase, and the arrays and the mixing loop of the DDR schedule. -/

namespace Sys2Proof.Machine

/-- What a store to words `[0 .. n-1]` of a block register or RAM does to it (10_state.md R51). -/
theorem storeBlock_effect {w n : Nat} (hw : w ≤ 64) {b : Block w} {regs : List Reg} (hb : b.length = n)
    (hn : n ≤ regs.length) :
    (storeBlock b regs).length = regs.length ∧ loadBlock w n (storeBlock b regs) = b
      ∧ ∀ j, n ≤ j → (storeBlock b regs).getD j 0 = regs.getD j 0 :=
  ⟨storeBlock_length b regs, loadBlock_storeBlock hw b regs hb hn,
    fun j hj => storeBlock_getD_ge b regs j (hb.trans_le hj)⟩

section
variable {w : Nat}

/-! ### Chunks -/

/-- `unpack` reads only the bytes of its Block, and a byte past the end of the list as 0. -/
theorem unpack_congr {n : Nat} {l l' : List Byte} (h : ∀ k < blockBytes w n, l.getD k 0 = l'.getD k 0) :
    unpack w n l = unpack w n l' := by
  refine eq_of_getD_eq 0 (by simp) fun j hj => ?_
  rw [unpack_length] at hj
  have hslice : unpackSlice w l j = unpackSlice w l' j := by
    refine eq_of_getD_eq 0 (by simp) fun q hq => ?_
    rw [unpackSlice_length] at hq
    have hplace : j * bytesPerWord w + q < blockBytes w n := calc
      j * bytesPerWord w + q < (j + 1) * bytesPerWord w := by rw [Nat.succ_mul]; omega
      _ ≤ n * bytesPerWord w := Nat.mul_le_mul_right _ hj
    rw [unpackSlice_getD _ _ hq, unpackSlice_getD _ _ hq, h _ hplace]
  rw [unpack_getD l hj, unpack_getD l' hj, hslice]

/-- The two nibbles of a byte (R185). -/
theorem nibpack_getD {bb k : Nat} (hk : k < bb) (nibs : List (BitVec 4)) :
    (nibpack bb nibs).getD k 0 = nibs.getD (2 * k) 0 ++ nibs.getD (2 * k + 1) 0 := by
  simp [nibpack, hk]

/-- A sentinel after `m` zeros is the only place that is not 0. -/
theorem getD_zeros_append_sentinel {v : Nat} (m k : Nat) (x : BitVec v) :
    (List.replicate m 0 ++ [x]).getD k 0 = if k = m then x else 0 := by
  obtain hlt | rfl | hgt := Nat.lt_trichotomy k m
  · rw [if_neg hlt.ne, List.getD_append _ _ _ _ (by simpa using hlt), List.getD_replicate _ hlt]
  · simp
  · rw [if_neg hgt.ne', List.getD_eq_default _ _ (by simpa using hgt)]

/-- The final chunks of an empty passphrase in byte mode and in hex mode are the same bytes (R184, R186). -/
theorem unpack_nibpack_hexFinalChunk_empty (n : Nat) :
    unpack w n (nibpack (blockBytes w n) (hexFinalChunk w [] 0)) = unpack w n (emFinalChunk w [] 0) := by
  have hhex : hexFinalChunk w [] 0 = List.replicate (2 * bytesPerWord w) 0 ++ [0x8] := rfl
  have hbytes : emFinalChunk w [] 0 = List.replicate (bytesPerWord w) 0 ++ [0x80] := rfl
  refine unpack_congr fun k hk => ?_
  rw [nibpack_getD hk, hhex, hbytes]
  simp only [getD_zeros_append_sentinel]
  have hlow : ¬2 * k + 1 = 2 * bytesPerWord w := by omega
  rw [if_neg hlow]
  by_cases hsent : k = bytesPerWord w
  · rw [if_pos hsent, if_pos (by omega)]
    rfl
  · rw [if_neg hsent, if_neg (by omega)]
    rfl

/-! ### The arrays of the DDR schedule -/

theorem keyWordLength_zero (hu : 0 < bytesPerWord w) : keyWordLength w 0 = 1 := by
  rw [keyWordLength, Nat.div_eq_of_lt (by omega)]
  rfl

theorem keyWordLength_of_pos (hu : 0 < bytesPerWord w) {n : Nat} (hn : 0 < n) :
    keyWordLength w n = (n + bytesPerWord w - 1) / bytesPerWord w :=
  max_eq_right (Nat.div_pos (by omega) hu)

/-- The number of key words, an empty passphrase apart (R189). -/
theorem keyWordLength_eq (hu : 0 < bytesPerWord w) (bytes : List Byte) :
    keyWordLength w bytes.length
      = if bytes = [] then 1 else (bytes.length + bytesPerWord w - 1) / bytesPerWord w := by
  split
  case isTrue h => rw [h, List.length_nil, keyWordLength_zero hu]
  case isFalse h => exact keyWordLength_of_pos hu (List.length_pos_iff.2 h)

theorem wordOfBytes_zeros (m : Nat) : wordOfBytes w (List.replicate m 0) = 0 := by
  induction m with
  | zero => rfl
  | succ m ih =>
    rw [List.replicate_succ', wordOfBytes_concat, ih]
    simp

theorem unpackSlice_nil (j : Nat) : unpackSlice w [] j = List.replicate (bytesPerWord w) 0 := by
  simp [unpackSlice]

/-- An empty passphrase is one zero key word (R189). -/
theorem ddrKeyWords_nil (hu : 0 < bytesPerWord w) : ddrKeyWords w [] = [0] := by
  have hlen : (ddrKeyWords w []).length = 1 := by
    rw [ddrKeyWords, unpack_length, List.length_nil, keyWordLength_zero hu]
  refine eq_of_getD_eq 0 hlen fun j hj => ?_
  obtain rfl : j = 0 := by omega
  rw [ddrKeyWords, unpack_getD _ (by simpa [ddrKeyWords] using hj), unpackSlice_nil, wordOfBytes_zeros]
  rfl

@[simp] theorem ddrSchedInit_length (kp kq : Word w) (t : Nat) : (ddrSchedInit kp kq t).length = t := by
  induction t generalizing kp with
  | zero => rfl
  | succ t ih => rw [ddrSchedInit, List.length_cons, ih]

/-- `S[i] = KP + i*KQ` before mixing (R190). -/
theorem ddrSchedInit_getD (kp kq : Word w) {t i : Nat} (hi : i < t) :
    (ddrSchedInit kp kq t).getD i 0 = kp + BitVec.ofNat w i * kq := by
  induction t generalizing kp i with
  | zero => omega
  | succ t ih =>
    rw [ddrSchedInit]
    cases i with
    | zero => simp
    | succ i =>
      rw [List.getD_cons_succ, ih (kp + kq) (by omega), BitVec.ofNat_add, BitVec.add_mul, BitVec.add_assoc,
        BitVec.add_comm kq]
      simp

/-! ### The mixing loop of the DDR schedule -/

/-- A rotation takes its amount modulo the width (R141). -/
theorem rotl_mod (a : Word w) (k : Nat) : rotl a (k % w) = rotl a k := by
  simp only [rotl, Nat.mod_mod]

theorem ddrMixLoop_eq_iterate (srot : Bool) (t c k : Nat) (d : DdrLoop w) :
    ddrMixLoop srot t c k d = (ddrMixOnce srot t c)^[k] d := by
  induction k generalizing d with
  | zero => rfl
  | succ k ih => exact ih _

theorem ddrMixLoop_s_length (srot : Bool) (t c k : Nat) (d : DdrLoop w) :
    (ddrMixLoop srot t c k d).s.length = d.s.length := by
  induction k generalizing d with
  | zero => rfl
  | succ k ih => exact (ih _).trans List.length_set

/-- The schedule has `t` Words (R190). -/
theorem ddrExpand_length (srot : Bool) (t : Nat) (kp kq : Word w) (acc : DdrAcc) (bytes : List Byte) :
    (ddrExpand srot t kp kq acc bytes).length = t :=
  (ddrMixLoop_s_length ..).trans (ddrSchedInit_length kp kq t)

end

/-- Settles O20: the arrays word by word, and the loop as the iterate of one pass (`ddrMixLoop_eq_iterate`). -/
theorem ddrExpandArrays : Obligations.DdrExpandArrays := by
  intro wd srot t kp kq acc bytes c pass
  have hu := bytesPerWord_pos wd
  have hc : keyWordLength wd.bits bytes.length = c := keyWordLength_eq hu bytes
  have hlen : (ddrKeyWords wd.bits bytes).length = c := (unpack_length ..).trans hc
  have hpass : ddrMixOnce srot t c = pass := by
    funext d
    simp only [pass, ddrMixOnce, rotS, rotl_mod]
  refine ⟨hc, hlen, fun j hj => unpack_getD bytes (hc ▸ hj), ddrKeyWords_nil hu, fun i hi => ddrSchedInit_getD kp kq hi,
    ddrExpand_length .., ?_⟩
  rw [ddrExpand, hc, ddrMixLoop_eq_iterate, hpass]
  simp only [BitVec.ofNat_eq_ofNat, BitVec.setWidth_zero]

end Sys2Proof.Machine

/-! PROOFS. The commands `KSCHED` and `NSEED` (41_key_schedule.md sections 1 and 2): one engine step for each token, and what the
step of EOF stores. -/

namespace Sys2Proof.Machine

section
variable {s : State} {n : Nat}

/-- What the completion of an EM key schedule does (R194). -/
theorem finishEmKey_effect {b : Block s.params.bits} (hb : b.length = n) (hn : n ≤ s.key.length) :
    let t := s.finishEmKey (toRegs b)
    t = { s with key := t.key, kvalid := true, err := .none, done := true, seq := .idle }
      ∧ t.key.length = s.key.length ∧ loadBlock s.params.bits n t.key = b
      ∧ ∀ j, n ≤ j → t.key.getD j 0 = s.key.getD j 0 :=
  ⟨rfl, storeBlock_effect (bits_le s.params.width) hb hn⟩

/-- What the completion of a DDR key schedule does (R194); `LRAM` is then any value (10_state.md R52). -/
theorem finishDdrKey_effect {b : Block s.params.bits} (hb : b.length = n) (hn : n ≤ s.sched.length) :
    let t := s.finishDdrKey b
    t = { s with
          sched := t.sched, lram := t.lram, free := t.free, kvalid := true, err := .none, done := true, seq := .idle }
      ∧ t.sched.length = s.sched.length ∧ loadBlock s.params.bits n t.sched = b
      ∧ ∀ j, n ≤ j → t.sched.getD j 0 = s.sched.getD j 0 :=
  ⟨rfl, storeBlock_effect (bits_le s.params.width) hb hn⟩

/-- What a command that stores a Block to `NONCE` and completes does (10_state.md R51, 60_exceptions.md R296). -/
theorem setNonce_complete_effect {b : Block s.params.bits} (hb : b.length = n) (hn : n ≤ s.nonce.length) :
    let t := (s.setNonce b).complete .none
    t = { s with nonce := t.nonce, err := .none, done := true, seq := .idle }
      ∧ t.nonce.length = s.nonce.length ∧ loadBlock s.params.bits n t.nonce = b
      ∧ ∀ j, n ≤ j → t.nonce.getD j 0 = s.nonce.getD j 0 :=
  ⟨rfl, storeBlock_effect (bits_le s.params.width) hb hn⟩

end

/-- Settles O16: the partial key block mixed with a chunk is `emAbsorb`, and EOF stores it (`finishEmKey_effect`). -/
theorem kschedByteModeSteps : Obligations.KschedByteModeSteps := by
  intro s c k buf total rest hs hn
  have hstep := exec_ksBytes_run hs
  refine ⟨fun b hin => ?_, fun hin => ?_⟩
  · exact hstep.trans (congrArg _ (ksBytesStep_data hin))
  · exact ⟨_, hstep.trans (congrArg _ (ksBytesStep_eof hin)),
      finishEmKey_effect (s := { s with inFifo := rest }) (by simp) hn⟩

/-- Settles O17: as O16, by nibbles; the token above 0x0F is `ksHexStep_badNibble`. -/
theorem kschedHexModeSteps : Obligations.KschedHexModeSteps := by
  intro s c k nibs total rest hs hn
  have hstep := exec_ksHex_run hs
  refine ⟨fun b hin hb => ?_, fun b hin hb => ?_, fun hin => ?_⟩
  · exact hstep.trans (congrArg _ (ksHexStep_data hin hb))
  · exact hstep.trans (congrArg _ (ksHexStep_badNibble hin hb))
  · exact ⟨_, hstep.trans (congrArg _ (ksHexStep_eof hin)),
      finishEmKey_effect (s := { s with inFifo := rest }) (by simp) hn⟩

/-- Settles O18: the expanded schedule has `t` Words (`ddrExpand_length`), which EOF stores (`finishDdrKey_effect`). -/
theorem kschedDdrSteps : Obligations.KschedDdrSteps := by
  intro s c n acc rest hs hn
  have hstep := exec_ksDdr_run hs
  refine ⟨fun b hin hroom => ?_, fun b hin hfull => ?_, fun hin => ?_⟩
  · exact hstep.trans (congrArg _ (ksDdrStep_data hin hroom))
  · exact ⟨_, hstep.trans (congrArg _ (ksDdrStep_tooLong hin hfull)), rfl, rfl, rfl, rfl, rfl⟩
  · exact ⟨_, hstep.trans (congrArg _ (ksDdrStep_eof hin)),
      finishDdrKey_effect (s := { s with inFifo := rest }) (ddrExpand_length ..) hn⟩

/-- Settles O21: both modes absorb the same final chunk (`unpack_nibpack_hexFinalChunk_empty`); that holds for any `CFG`. -/
theorem emptyHexPassphraseGivesTheSameKey : Obligations.EmptyHexPassphraseGivesTheSameKey := by
  intro s c k rest _ hs hin
  have habsorb : emAbsorb c s k (nibpack (blockBytes s.params.bits c.n) (hexFinalChunk s.params.bits [] 0))
      = emAbsorb c s k (emFinalChunk s.params.bits [] 0) := by
    rw [emAbsorb, emAbsorb, unpack_nibpack_hexFinalChunk_empty]
  have hbytes := (exec_ksBytes_run hs).trans (congrArg _ (ksBytesStep_eof hin))
  have hhex := (exec_ksHex_run (s := { s with seq := .run { c with hexkey := true } (.ksHex k [] 0) }) rfl).trans
    (congrArg _ (ksHexStep_eof hin))
  exact ⟨_, _, hbytes, hhex, congrArg (overlay · s.key) habsorb, rfl, rfl⟩

/-- Settles O22, token by token. -/
theorem nseedSteps : Obligations.NseedSteps := by
  intro s c buf k rest hs hn
  have hstep := exec_nseed_run hs
  refine ⟨fun b hin => ?_, fun hin => ?_, fun tok htok hin => ?_⟩
  · exact hstep.trans (congrArg _ (nseedStep_data hin))
  · exact ⟨_, hstep.trans (congrArg _ (nseedStep_eof hin)),
      setNonce_complete_effect (s := { s with inFifo := rest }) (unpack_length ..) hn⟩
  · have hfailed : s.inFifo = .err :: rest ∨ s.inFifo = .reserved :: rest := by
      obtain rfl | rfl := htok
      · exact .inl hin
      · exact .inr hin
    exact hstep.trans (congrArg _ (nseedStep_failed hfailed))

end Sys2Proof.Machine

/-! PROOFS. The password check (41_key_schedule.md section 3): the check block, its comparison with the tag, and the two commands
that store it into `PWC[0 .. N-1]`. -/

namespace Sys2Proof.Machine

/-- What a command that stores a Block to `PWC` and completes does, with its error code (10_state.md R51, 60_exceptions.md
R296). -/
theorem setPwc_complete_effect {s : State} {n : Nat} {b : Block s.params.bits} (code : ErrCode) (hb : b.length = n)
    (hn : n ≤ s.pwc.length) :
    let t := (s.setPwc b).complete code
    t = { s with pwc := t.pwc, err := code, done := true, seq := .idle }
      ∧ t.pwc.length = s.pwc.length ∧ loadBlock s.params.bits n t.pwc = b
      ∧ ∀ j, n ≤ j → t.pwc.getD j 0 = s.pwc.getD j 0 :=
  ⟨rfl, storeBlock_effect (bits_le s.params.width) hb hn⟩

theorem checkBlock_cipher_length (c : Cfg) (s : State) : (checkBlock (s.cipher c)).length = c.n := by
  unfold checkBlock
  split
  case h_1 => rw [emEncrypt_length] <;> simp
  case h_2 => simp

/-- The comparison of `PWVER` (R197): every word of `N`, or word 0 alone. -/
theorem tagMatches_iff {w n : Nat} {full : Bool} {check tag : Block w} (hcheck : check.length = n)
    (htag : tag.length = n) :
    tagMatches full check tag = true ↔ ∀ j < (if full then n else 1), check.getD j 0 = tag.getD j 0 := by
  cases full with
  | true =>
    simp only [tagMatches, if_true, beq_iff_eq]
    constructor
    · rintro rfl j -
      rfl
    · exact fun h => eq_of_getD_eq 0 (hcheck.trans htag.symm) (hcheck ▸ h)
  | false => simp [tagMatches]

/-- The comparison of `PWVER` in a state: the words compared are words of the block, as `N` is at least 1. -/
theorem tagMatches_pwtag_iff {s : State} {c : Cfg} {check : Block s.params.bits} (hcheck : check.length = c.n)
    (hn : 1 ≤ c.n) :
    tagMatches c.pwfull check (loadBlock s.params.bits c.n s.pwtag) = true
      ↔ ∀ j < (if c.pwfull then c.n else 1), check.getD j 0 = (s.pwtag.getD j 0).setWidth s.params.bits := by
  have hbound : (if c.pwfull then c.n else 1) ≤ c.n := by split <;> omega
  rw [tagMatches_iff hcheck (loadBlock_length ..)]
  refine forall₂_congr fun j hj => ?_
  rw [loadBlock_getD _ _ _ _ (hj.trans_le hbound)]

/-- Settles O23: the check block written out is `checkBlock` of the state, family by family; the comparison is
`tagMatches_pwtag_iff`. -/
theorem passwordCheckCommands : Obligations.PasswordCheckCommands := by
  intro s c hpwc hn w check
  have hlen := checkBlock_cipher_length c s
  have hcheck : checkBlock (s.cipher c) = check := by
    unfold check
    cases hf : s.params.family <;> simp only [checkBlock, State.cipher, hf] <;> rfl
  rw [hcheck] at hlen
  refine ⟨fun hs => ?_, fun hs => ?_⟩
  · have hstep := exec_pwchk_run hs
    rw [hcheck] at hstep
    exact ⟨_, hstep, setPwc_complete_effect .none hlen hpwc⟩
  · have hstep := exec_pwver_run hs
    rw [hcheck] at hstep
    obtain ⟨hframe, hsize, hblock, habove⟩ := setPwc_complete_effect _ hlen hpwc
    refine ⟨_, hstep, hframe, hsize, hblock, habove, ?_⟩
    exact if_congr (tagMatches_pwtag_iff hlen hn) rfl rfl

end Sys2Proof.Machine

/-! PROOFS. The nonce counter (42_mode_composer.md R221). The loop of `inc` runs from the last Word towards Word 0, so
a Block is taken apart at its end: its value is that of the Words above, times `2^W`, plus the last Word. -/

namespace Sys2Proof.Machine

section
variable {w : Nat}

/-! ### The value of a Block -/

theorem blockValue_concat (v : Block w) (x : Word w) : blockValue (v ++ [x]) = blockValue v * 2 ^ w + x.toNat := by
  simp [blockValue]

/-- A Block with a last Word: the Words above it, and itself. -/
theorem exists_concat_of_length_succ {n : Nat} {v : Block w} (h : v.length = n + 1) :
    ∃ (u : Block w) (x : Word w), v = u ++ [x] ∧ u.length = n := by
  obtain rfl | ⟨u, x, rfl⟩ := List.eq_nil_or_concat v
  · simp at h
  · exact ⟨u, x, List.concat_eq_append, by simpa using h⟩

theorem blockValue_lt {n : Nat} {v : Block w} (h : v.length = n) : blockValue v < 2 ^ (n * w) := by
  induction n generalizing v with
  | zero => simp [List.length_eq_zero_iff.1 h, blockValue]
  | succ n ih =>
    obtain ⟨u, x, rfl, hu⟩ := exists_concat_of_length_succ h
    have hx := x.isLt
    calc blockValue (u ++ [x]) = blockValue u * 2 ^ w + x.toNat := blockValue_concat u x
      _ < (blockValue u + 1) * 2 ^ w := by rw [Nat.succ_mul]; omega
      _ ≤ 2 ^ (n * w) * 2 ^ w := Nat.mul_le_mul_right _ (ih hu)
      _ = 2 ^ ((n + 1) * w) := by rw [← Nat.pow_add, Nat.succ_mul]

/-! ### The loop of `inc` (R221) -/

/-- The loop from Word `j` leaves the Words after it. -/
theorem incFrom_append {j : Nat} {u : Block w} (hj : j < u.length) (z : Block w) :
    incFrom j (u ++ z) = incFrom j u ++ z := by
  induction j generalizing u with
  | zero => simp [incFrom, hj]
  | succ j ih =>
    have hrec := ih (u := u.set (j + 1) (u.getD (j + 1) 0 + 1)) (by rw [List.length_set]; omega)
    simp only [incFrom, List.getD_append _ _ _ _ hj, List.set_append_left _ _ hj, hrec]
    rw [List.getD_append _ _ _ _ (by simpa using hj)]
    split <;> rfl

/-- The loop from the last Word, which is not the top one: the carry goes into the Words above when that Word wraps. -/
theorem incFrom_concat {j : Nat} {u : Block w} (hu : u.length = j + 1) (x : Word w) :
    incFrom (j + 1) (u ++ [x]) = (if x + 1 = 0 then incFrom j u else u) ++ [x + 1] := by
  have hlast : (u ++ [x]).getD (j + 1) 0 = x := by simp [← hu]
  have hset : (u ++ [x]).set (j + 1) (x + 1) = u ++ [x + 1] := by simp [← hu]
  have hlast' : (u ++ [x + 1]).getD (j + 1) 0 = x + 1 := by simp [← hu]
  have hj : j < u.length := by omega
  simp only [incFrom, hlast, hset, hlast', ne_eq, ite_not, incFrom_append hj]
  split <;> rfl

/-- A Word and its carry: adding one wraps exactly at `2^W`. -/
theorem word_toNat_add_one (x : Word w) : x.toNat + 1 = (if x + 1 = 0 then 2 ^ w else 0) + (x + 1).toNat := by
  have hmod : (x + 1).toNat = (x.toNat + 1) % 2 ^ w := by simp
  have hzero : x + 1 = 0 ↔ (x + 1).toNat = 0 := BitVec.toNat_inj (y := 0).symm
  simp only [hzero, hmod]
  obtain hlt | hwrap := Nat.lt_or_eq_of_le (Nat.add_one_le_of_lt x.isLt)
  · simp [Nat.mod_eq_of_lt hlt]
  · simp [hwrap]

theorem blockValue_incFrom {j : Nat} {v : Block w} (h : v.length = j + 1) :
    blockValue (incFrom j v) = (blockValue v + 1) % 2 ^ ((j + 1) * w) := by
  induction j generalizing v with
  | zero =>
    obtain ⟨x, rfl⟩ := List.length_eq_one_iff.1 h
    simp [incFrom, blockValue]
  | succ j ih =>
    obtain ⟨u, x, rfl, hu⟩ := exists_concat_of_length_succ h
    have hcarry := word_toNat_add_one x
    rw [incFrom_concat hu, blockValue_concat, blockValue_concat, Nat.add_assoc]
    by_cases hx : x + 1 = 0
    · rw [if_pos hx] at hcarry ⊢
      rw [hcarry, hx, ih hu, ← Nat.mul_mod_mul_right, ← Nat.pow_add]
      simp [Nat.succ_mul]
    · rw [if_neg hx, Nat.zero_add] at hcarry
      rw [if_neg hx, hcarry, ← blockValue_concat, Nat.mod_eq_of_lt (blockValue_lt (by simpa using hu))]

theorem blockValue_nonceInc {n : Nat} {v : Block w} (hn : 1 ≤ n) (h : v.length = n) :
    blockValue (nonceInc n v) = (blockValue v + 1) % 2 ^ (n * w) := by
  obtain ⟨j, rfl⟩ := Nat.exists_eq_add_of_le' hn
  exact blockValue_incFrom h

theorem blockValue_nonceAfter {n : Nat} {v : Block w} (hn : 1 ≤ n) (k : Nat) (h : v.length = n) :
    blockValue (nonceAfter n k v) = (blockValue v + k) % 2 ^ (n * w) := by
  induction k generalizing v with
  | zero => exact (Nat.mod_eq_of_lt (blockValue_lt h)).symm
  | succ k ih =>
    rw [nonceAfter, ih (by simpa using h), blockValue_nonceInc hn h, Nat.mod_add_mod, Nat.add_assoc, Nat.add_comm 1]

end

/-- Settles O24: the carry of each Word is the carry of the number (`blockValue_incFrom`). -/
theorem nonceIncAddsOne : Obligations.NonceIncAddsOne := by
  intro w n v hn hv
  exact ⟨(nonceInc_length n v).trans hv, blockValue_nonceInc hn hv⟩

end Sys2Proof.Machine

/-! PROOFS. The Mode Composer's commands (42_mode_composer.md R222 to R226): `MENC` and `MDEC` store one Block into
`BLK[0 .. N-1]` and advance the counters; `NINC` stores the nonce alone. -/

namespace Sys2Proof.Machine

section
variable {s : State} {c : Cfg}

@[simp] theorem nonceBlock_length (c : Cfg) (s : State) : (s.nonceBlock c).length = c.n := loadBlock_length ..

theorem mcEncBlock_length (c : Cfg) (s : State) :
    (mcEncBlock (s.cipher c) (s.nonceBlock c) (s.blkBlock c)).length = c.n := by
  rw [mcEncBlock, encryptBlock_length] <;> simp [encryptBlock_nonce_length]

theorem mcDecBlock_length (c : Cfg) (s : State) :
    (mcDecBlock (s.cipher c) (s.nonceBlock c) (s.blkBlock c)).length = c.n := by
  rw [mcDecBlock, xorBlock_length, decryptBlock_blk_length, encryptBlock_nonce_length, Nat.min_self]

/-- `MC_DEC` under the nonce of `MC_ENC` undoes it: `D` undoes `E`, and the keystream cancels (R226). -/
theorem mcDecBlock_mcEncBlock {w : Nat} {k : CipherCtx w} {v p : Block w} (hn : 2 ≤ k.n) (hv : v.length = k.key.length)
    (hp : p.length = k.key.length) : mcDecBlock k v (mcEncBlock k v p) = p := by
  have hkeystream : (encryptBlock k v).length = k.key.length := (encryptBlock_length k v hv.symm).trans hv
  rw [mcDecBlock, mcEncBlock, decryptBlock_encryptBlock hn (by simp [hp, hkeystream]),
    xorBlock_xorBlock_self (hp.trans hkeystream.symm)]

/-- What a command that stores a Block to `BLK`, advances the counters and completes does (R51, R223, R224). -/
theorem setBlk_advanceNonce_complete_effect {b : Block s.params.bits} (hb : b.length = c.n) (hblk : c.n ≤ s.blk.length)
    (hnonce : c.n ≤ s.nonce.length) :
    let t := ((s.setBlk b).advanceNonce c).complete .none
    t = { s with blk := t.blk, nonce := t.nonce, blkcnt := s.blkcnt + 1, err := .none, done := true, seq := .idle }
      ∧ t.blk.length = s.blk.length ∧ t.nonce.length = s.nonce.length
      ∧ loadBlock s.params.bits c.n t.blk = b
      ∧ loadBlock s.params.bits c.n t.nonce = nonceInc c.n (loadBlock s.params.bits c.n s.nonce)
      ∧ ∀ j, c.n ≤ j → t.blk.getD j 0 = s.blk.getD j 0 ∧ t.nonce.getD j 0 = s.nonce.getD j 0 := by
  have hw := bits_le s.params.width
  obtain ⟨hblkLen, hblkLoad, hblkAbove⟩ := storeBlock_effect hw hb hblk
  obtain ⟨hnonceLen, hnonceLoad, hnonceAbove⟩ :=
    storeBlock_effect hw (b := nonceInc c.n (s.nonceBlock c)) (by simp) hnonce
  exact ⟨rfl, hblkLen, hnonceLen, hblkLoad, hnonceLoad, fun j hj => ⟨hblkAbove j hj, hnonceAbove j hj⟩⟩

end

/-- Settles O25: `E` and `D` written out are the keyed block functions of the state, family by family; the Blocks of
R223 and R224 are then `mcEncBlock` and `mcDecBlock`. -/
theorem mencAndMdecTransformBlk : Obligations.MencAndMdecTransformBlk := by
  intro s c hblk hnonce w a key sched enc dec keystream x
  have henc : encryptBlock (s.cipher c) = enc := by
    unfold enc
    funext b
    cases hf : s.params.family <;> simp only [encryptBlock, State.cipher, hf] <;> rfl
  have hdec : decryptBlock (s.cipher c) = dec := by
    unfold dec
    funext b
    cases hf : s.params.family <;> simp only [decryptBlock, State.cipher, hf] <;> rfl
  have hmenc : mcEncBlock (s.cipher c) (s.nonceBlock c) (s.blkBlock c) = enc (xorBlock x keystream) := by
    rw [mcEncBlock, henc]
    rfl
  have hmdec : mcDecBlock (s.cipher c) (s.nonceBlock c) (s.blkBlock c) = xorBlock (dec x) keystream := by
    rw [mcDecBlock, henc, hdec]
    rfl
  refine ⟨fun hs => ⟨_, exec_menc_run hs, ?_⟩, fun hs => ⟨_, exec_mdec_run hs, ?_⟩⟩
  · rw [← hmenc]
    exact setBlk_advanceNonce_complete_effect (mcEncBlock_length c s) hblk hnonce
  · rw [← hmdec]
    exact setBlk_advanceNonce_complete_effect (mcDecBlock_length c s) hblk hnonce

/-- Settles O26: `inc` keeps the number of Words, which `setNonce_complete_effect` stores. -/
theorem nincIncrementsNonce : Obligations.NincIncrementsNonce := by
  intro s c hs hn
  exact ⟨_, exec_ninc_run hs, setNonce_complete_effect (by simp) hn⟩

/-- Settles O27: `MDEC` loads the Block `MENC` stored and stores back the one it loaded (`mcDecBlock_mcEncBlock`); the
nonce of both is the increment of the same words. -/
theorem modeComposerLockstep : Obligations.ModeComposerLockstep := by
  refine ⟨fun s c hinv hs => ?_, fun w n k v hn hv => blockValue_nonceAfter hn k hv⟩
  obtain ⟨hlow, hblk⟩ := hinv.blockSize hs rfl
  have hnonce : c.n ≤ s.nonce.length := hblk.trans_eq (hinv.data.blk.1.trans hinv.data.nonce.1.symm)
  have hundo : mcDecBlock (s.cipher c) (s.nonceBlock c) (mcEncBlock (s.cipher c) (s.nonceBlock c) (s.blkBlock c))
      = s.blkBlock c := mcDecBlock_mcEncBlock hlow (by simp) (by simp)
  obtain ⟨-, -, -, -, hinc, -⟩ := setBlk_advanceNonce_complete_effect (mcEncBlock_length c s) hblk hnonce
  exact ⟨_, _, exec_menc_run hs, exec_mdec_run rfl,
    storeBlock_restores (bits_le s.params.width) hinv.data.blk.2 hblk (mcEncBlock_length c s) hundo, rfl, hinc⟩

end Sys2Proof.Machine

/-! PROOFS. The engine steps of `SENC` and `SDEC` that take a token (43_stream_codec.md R242 to R251), and the scan for the
last non-zero byte (R248). -/

namespace Sys2Proof.Machine

/-! ### The scan for the last non-zero byte -/

theorem lastNonZeroFrom_eq_zero {bytes : List Byte} (h : ∀ k, bytes.getD k 0 = 0) (n : Nat) :
    lastNonZeroFrom bytes n = 0 := by
  induction n with
  | zero => rfl
  | succ n ih => rw [lastNonZeroFrom, if_neg (not_not.2 (h _)), ih]

/-- A scan with only zeros above its start ends at the last non-zero byte. -/
theorem lastNonZeroFrom_spec {bytes : List Byte} {n : Nat} (habove : ∀ j, n < j → bytes.getD j 0 = 0)
    (h : ∃ k, bytes.getD k 0 ≠ 0) :
    bytes.getD (lastNonZeroFrom bytes n) 0 ≠ 0 ∧ ∀ j, lastNonZeroFrom bytes n < j → bytes.getD j 0 = 0 := by
  induction n with
  | zero =>
    obtain ⟨k, hk⟩ := h
    have hk0 : k = 0 := Nat.eq_zero_of_not_pos fun hpos => hk (habove k hpos)
    subst hk0
    exact ⟨hk, habove⟩
  | succ n ih =>
    rw [lastNonZeroFrom]
    split
    case isTrue hne => exact ⟨hne, habove⟩
    case isFalse hzero =>
      refine ih fun j hj => ?_
      obtain rfl | hlt := Nat.eq_or_lt_of_le (Nat.succ_le_of_lt hj)
      · exact not_not.1 hzero
      · exact habove j hlt

theorem lastNonZero_spec {bytes : List Byte} (h : ∃ k, bytes.getD k 0 ≠ 0) :
    bytes.getD (lastNonZero bytes) 0 ≠ 0 ∧ ∀ j, lastNonZero bytes < j → bytes.getD j 0 = 0 :=
  lastNonZeroFrom_spec (fun _ hj => List.getD_eq_default _ _ (by omega)) h

/-- A non-zero byte with only zeros after it is the one the scan finds. -/
theorem lastNonZero_eq {bytes : List Byte} {p : Nat} (hp : bytes.getD p 0 ≠ 0)
    (hzero : ∀ j, p < j → bytes.getD j 0 = 0) : lastNonZero bytes = p := by
  obtain ⟨hlast, habove⟩ := lastNonZero_spec ⟨p, hp⟩
  exact Nat.le_antisymm (Nat.le_of_not_lt fun h => hlast (hzero _ h)) (Nat.le_of_not_lt fun h => hp (habove _ h))

/-- Settles O29: the scan starts at the last byte (`lastNonZero_spec`, `lastNonZeroFrom_eq_zero`). -/
theorem lastNonZeroFindsTheLast : Obligations.LastNonZeroFindsTheLast :=
  fun _ => ⟨lastNonZero_spec, fun h => lastNonZeroFrom_eq_zero h _⟩

/-! ### The steps that take a token -/

section
variable {s : State} {c : Cfg}

/-- A command that is not on its last block goes on, whether or not it has a byte to emit. -/
theorem emitThen_false (work : List Byte → Work) (out : List Byte) :
    s.emitThen c work out false = s.continueWith c (work out) := by simp [State.emitThen]

/-- A command on its last block is complete when it has no byte to emit. -/
theorem emitThen_true (work : List Byte → Work) (out : List Byte) :
    s.emitThen c work out true = if out = [] then s.complete .none else s.continueWith c (work out) := by
  simp [State.emitThen]

/-- The block held before the one just taken is not the last (R246, R247). -/
theorem sdecBlockTaken_held (h blk : List Byte) :
    sdecBlockTaken c (some h) blk s
      = (s.advanceNonce c).continueWith c (.sdec [] (some blk) (sdecBlockBytes c s h) false) := by
  rw [sdecBlockTaken, emitThen_false]

/-- EOF with a block held and none pending: that block is the last (R248, R250). -/
theorem sdecEof_held (h : List Byte) :
    sdecEof c [] (some h) s
      = if stripPadding (sdecBlockBytes c s h) = [] then (s.advanceNonce c).complete .none
        else (s.advanceNonce c).continueWith c (.sdec [] none (stripPadding (sdecBlockBytes c s h)) true) := by
  simp only [sdecEof, ne_eq, not_true_eq_false, if_false, emitThen_true]

/-- EOF with a partial block pending, or with none held, is TRUNC (R250). -/
theorem sdecEof_trunc {buf : List Byte} {held : Option (List Byte)} (h : buf ≠ [] ∨ held = none) :
    sdecEof c buf held s = s.complete .trunc := by
  cases held with
  | none => rfl
  | some blk => exact if_pos (h.resolve_right (Option.some_ne_none blk))

end

/-- An ERR or reserved token at the head of the IN FIFO, as the `_failed` lemmas of each command take it. -/
theorem inFifo_failed {s : State} {tok : Token} {rest : List Token} (htok : tok = .err ∨ tok = .reserved)
    (hin : s.inFifo = tok :: rest) : s.inFifo = .err :: rest ∨ s.inFifo = .reserved :: rest := by
  obtain rfl | rfl := htok
  · exact .inl hin
  · exact .inr hin

/-- Settles O30, token by token; the last block is never empty, so EOF does not complete the command. -/
theorem sencTakeSteps : Obligations.SencTakeSteps := by
  intro s c buf rest hs hn w k v cipherBytes taken
  have hstep := exec_senc_take hs
  refine ⟨fun b hin hroom => ?_, fun b hin hfull => ?_, fun hin => ?_, fun tok htok hin => ?_⟩
  · exact hstep.trans (congrArg _ (sencTake_partial hin hroom))
  · exact hstep.trans (congrArg _ ((sencTake_full hin hfull).trans (emitThen_false ..)))
  · have hne : sencBlockBytes c s (buf ++ [sentinel]) ≠ [] := by
      rw [← List.length_pos_iff, sencBlockBytes_length]
      exact Nat.mul_pos hn (bytesPerWord_pos s.params.width)
    exact hstep.trans (congrArg _ ((sencTake_eof hin).trans ((emitThen_true ..).trans (if_neg hne))))
  · exact hstep.trans (congrArg _ (sencTake_failed (inFifo_failed htok hin)))

/-- Settles O31, token by token; at EOF by what is pending and what is held. -/
theorem sdecTakeSteps : Obligations.SdecTakeSteps := by
  intro s c buf held rest hs w k v plainBytes taken advanced
  have hstep := exec_sdec_take hs
  refine ⟨fun b hin => ?_, fun hin => ?_, fun tok htok hin => ?_⟩
  · refine hstep.trans (congrArg _ ?_)
    split
    case isTrue hroom => exact sdecTake_partial hin hroom
    case isFalse hfull =>
      refine (sdecTake_full hin (not_not.1 hfull)).trans ?_
      cases held with
      | none => rfl
      | some h => exact sdecBlockTaken_held h _
  · refine hstep.trans (congrArg _ ((sdecTake_eof hin).trans ?_))
    match buf, held with
    | [], some h => exact sdecEof_held h
    | [], none => exact sdecEof_trunc (.inr rfl)
    | b :: buf, none => exact sdecEof_trunc (.inr rfl)
    | b :: buf, some h => exact sdecEof_trunc (.inl (List.cons_ne_nil b buf))
  · exact hstep.trans (congrArg _ (sdecTake_failed (inFifo_failed htok hin)))

end Sys2Proof.Machine

/-! PROOFS. The Streaming Codec on byte strings (43_stream_codec.md R242 to R255), apart from the machine: a plaintext as whole
blocks and a shorter tail, what `SENC` makes of them, and what `SDEC` makes of that. -/

namespace Sys2Proof.Machine

/-! ### A byte string as blocks -/

/-- A byte string is whole blocks of `size` bytes and a shorter tail. -/
theorem exists_blocks {size : Nat} (hsize : 0 < size) (bytes : List Byte) :
    ∃ (blocks : List (List Byte)) (tail : List Byte),
      bytes = blocks.flatten ++ tail ∧ (∀ p ∈ blocks, p.length = size) ∧ tail.length < size := by
  induction bytes using List.reverseRecOn with
  | nil => exact ⟨[], [], rfl, by simp, hsize⟩
  | append_singleton bytes b ih =>
    obtain ⟨blocks, tail, rfl, hblocks, htail⟩ := ih
    obtain hfull | hroom := Nat.eq_or_lt_of_le (Nat.succ_le_of_lt htail)
    · refine ⟨blocks ++ [tail ++ [b]], [], by simp, fun p hp => ?_, hsize⟩
      obtain hp | hp := List.mem_append.1 hp
      · exact hblocks p hp
      · simpa [List.mem_singleton.1 hp] using hfull
    · exact ⟨blocks, tail ++ [b], by simp, hblocks, by simpa using hroom⟩

theorem flatten_length {size : Nat} {blocks : List (List Byte)} (h : ∀ p ∈ blocks, p.length = size) :
    blocks.flatten.length = size * blocks.length := by
  rw [List.length_flatten, List.map_congr_left h, List.map_const', List.sum_replicate_nat, Nat.mul_comm]

/-- The number of whole blocks (R244). -/
theorem blocks_length {size : Nat} {blocks : List (List Byte)} {tail : List Byte} (h : ∀ p ∈ blocks, p.length = size)
    (htail : tail.length < size) : (blocks.flatten ++ tail).length / size = blocks.length := by
  rw [List.length_append, flatten_length h, Nat.mul_add_div (Nat.zero_lt_of_lt htail), Nat.div_eq_of_lt htail,
    Nat.add_zero]

/-! ### The padding of the last block -/

theorem unpack_pack_of_length {w n : Nat} (hw : w = 8 * bytesPerWord w) {x : Block w} (h : x.length = n) :
    unpack w n (pack x) = x := h ▸ unpack_pack hw x

/-- The slots of a Block after the bytes put in it are 0 (R242). -/
theorem pack_unpack_short {w n : Nat} (hw : w = 8 * bytesPerWord w) {bytes : List Byte}
    (h : bytes.length ≤ blockBytes w n) :
    pack (unpack w n bytes) = bytes ++ List.replicate (blockBytes w n - bytes.length) 0 := by
  rw [← pack_unpack hw (n := n) (bytes := bytes ++ _) (by simp; omega)]
  refine congrArg pack (unpack_congr fun k _ => ?_)
  obtain hlt | hge := Nat.lt_or_ge k bytes.length
  · rw [List.getD_append _ _ _ _ hlt]
  · rw [List.getD_append_right _ _ _ _ hge, List.getD_eq_default _ _ hge]
    simp

/-- The scan finds the sentinel, whatever the last byte before it (R248, R255). -/
theorem stripPadding_sentinel (tail : List Byte) (m : Nat) :
    stripPadding (tail ++ [sentinel] ++ List.replicate m 0) = tail := by
  have hscan : lastNonZero (tail ++ [sentinel] ++ List.replicate m 0) = tail.length := by
    refine lastNonZero_eq (by simp [sentinel]) fun j hj => ?_
    rw [List.getD_append_right _ _ _ _ (by simpa using hj)]
    simp
  rw [stripPadding, hscan, List.append_assoc, List.take_left]

section
variable {w : Nat} {k : CipherCtx w} {v : Block w}

/-! ### One block -/

/-- The ciphertext bytes of one block of plaintext bytes (R242). -/
def mcEncBytes (k : CipherCtx w) (v : Block w) (p : List Byte) : List Byte := pack (mcEncBlock k v (unpack w k.n p))

/-- The plaintext bytes of one block of ciphertext bytes (R246). -/
def mcDecBytes (k : CipherCtx w) (v : Block w) (ct : List Byte) : List Byte := pack (mcDecBlock k v (unpack w k.n ct))

theorem sencBlockBytes_eq (c : Cfg) (s : State) (p : List Byte) :
    sencBlockBytes c s p = mcEncBytes (s.cipher c) (s.nonceBlock c) p := rfl

theorem sdecBlockBytes_eq (c : Cfg) (s : State) (ct : List Byte) :
    sdecBlockBytes c s ct = mcDecBytes (s.cipher c) (s.nonceBlock c) ct := rfl

theorem mcEncBytes_length (hk : k.key.length = k.n) (hv : v.length = k.n) (p : List Byte) :
    (mcEncBytes k v p).length = blockBytes w k.n := by
  rw [mcEncBytes, pack_length, mcEncBlock, encryptBlock_length] <;> simp [encryptBlock_length, hk, hv]

/-- Decrypting the ciphertext bytes of a block under its nonce gives its bytes, the slots after them 0. -/
theorem mcDecBytes_mcEncBytes (hw : w = 8 * bytesPerWord w) (hn : 2 ≤ k.n) (hk : k.key.length = k.n)
    (hv : v.length = k.n) {p : List Byte} (hp : p.length ≤ blockBytes w k.n) :
    mcDecBytes k v (mcEncBytes k v p) = p ++ List.replicate (blockBytes w k.n - p.length) 0 := by
  have hblock : (mcEncBlock k v (unpack w k.n p)).length = k.n := by
    rw [mcEncBlock, encryptBlock_length] <;> simp [encryptBlock_length, hk, hv]
  have hunpack : unpack w k.n (mcEncBytes k v p) = mcEncBlock k v (unpack w k.n p) :=
    unpack_pack_of_length hw hblock
  rw [mcDecBytes, hunpack, mcDecBlock_mcEncBlock hn (hv.trans hk.symm) ((unpack_length ..).trans hk.symm),
    pack_unpack_short hw hp]

/-! ### Streams -/

/-- The ciphertext blocks of a list of blocks, the nonce counting up (R243). -/
def sencStream (k : CipherCtx w) : Block w → List (List Byte) → List (List Byte)
  | _, [] => []
  | v, p :: ps => mcEncBytes k v p :: sencStream k (nonceInc k.n v) ps

/-- The bytes `SDEC` emits with ciphertext block `ct` held and the blocks after it to come (R246 to R248). -/
def sdecStream (k : CipherCtx w) : Block w → List Byte → List (List Byte) → List Byte
  | v, ct, [] => stripPadding (mcDecBytes k v ct)
  | v, ct, ct' :: cts => mcDecBytes k v ct ++ sdecStream k (nonceInc k.n v) ct' cts

theorem sencStream_length (v : Block w) (ps : List (List Byte)) : (sencStream k v ps).length = ps.length := by
  induction ps generalizing v with
  | nil => rfl
  | cons p ps ih => simp [sencStream, ih]

theorem sencStream_block_length (hk : k.key.length = k.n) (hv : v.length = k.n) (ps : List (List Byte)) :
    ∀ ct ∈ sencStream k v ps, ct.length = blockBytes w k.n := by
  induction ps generalizing v with
  | nil => simp [sencStream]
  | cons p ps ih =>
    exact List.forall_mem_cons.2 ⟨mcEncBytes_length hk hv p, ih ((nonceInc_length ..).trans hv)⟩

theorem sencStream_flatten_length (hk : k.key.length = k.n) (hv : v.length = k.n) (ps : List (List Byte)) :
    (sencStream k v ps).flatten.length = blockBytes w k.n * ps.length := by
  rw [flatten_length (sencStream_block_length hk hv ps), sencStream_length]

/-- `SDEC` of the ciphertext blocks gives the plaintext: each block but the last is whole, and of the last the scan
leaves the bytes before the sentinel (R254). -/
theorem sdecStream_sencStream (hw : w = 8 * bytesPerWord w) (hn : 2 ≤ k.n) (hk : k.key.length = k.n)
    (hv : v.length = k.n) {blocks : List (List Byte)} (hblocks : ∀ p ∈ blocks, p.length = blockBytes w k.n)
    {tail : List Byte} (htail : tail.length < blockBytes w k.n) {ct : List Byte} {cts : List (List Byte)}
    (hct : sencStream k v (blocks ++ [tail ++ [sentinel]]) = ct :: cts) :
    sdecStream k v ct cts = blocks.flatten ++ tail := by
  induction blocks generalizing v ct cts with
  | nil =>
    obtain ⟨rfl, rfl⟩ := List.cons_eq_cons.1 hct
    have hlen : (tail ++ [sentinel]).length ≤ blockBytes w k.n := by simpa using htail
    calc sdecStream k v (mcEncBytes k v (tail ++ [sentinel])) []
        = stripPadding (mcDecBytes k v (mcEncBytes k v (tail ++ [sentinel]))) := rfl
      _ = tail := by rw [mcDecBytes_mcEncBytes hw hn hk hv hlen, stripPadding_sentinel]
  | cons p ps ih =>
    obtain ⟨rfl, hrest⟩ := List.cons_eq_cons.1 hct
    obtain ⟨hp, hps⟩ := List.forall_mem_cons.1 hblocks
    cases cts with
    | nil => simpa [sencStream_length] using congrArg List.length hrest
    | cons ct' cts =>
      rw [sdecStream, ih ((nonceInc_length ..).trans hv) hps hrest, mcDecBytes_mcEncBytes hw hn hk hv hp.le, hp,
        Nat.sub_self]
      simp

end

end Sys2Proof.Machine

/-! PROOFS. Runs of the Streaming Codec with its IN stream queued whole and room for its output (43_stream_codec.md R244, R252,
R254). A block is three stretches: its bytes are buffered, one step takes the last token and computes the block, and what it
computed is emitted. The first and the last are the same for both commands. -/

namespace Sys2Proof.Machine

/-! ### Engine steps in a row -/

/-- Some number of engine steps leads from one state to the other. -/
abbrev EngineReaches : State → State → Prop := Relation.ReflTransGen fun s t => engineTurn s = .next t

theorem EngineReaches.exists_engineSteps {s t : State} (h : EngineReaches s t) : ∃ k, engineSteps k s = .next t := by
  induction h using Relation.ReflTransGen.head_induction_on with
  | refl => exact ⟨0, rfl⟩
  | head hstep _ ih =>
    obtain ⟨k, hk⟩ := ih
    refine ⟨k + 1, ?_⟩
    rw [engineSteps, hstep]
    exact hk

/-! ### What the stretches of a run leave -/

/-- The state after `n` data tokens have been taken, `rest` being left. -/
def State.taken (n : Nat) (rest : List Token) (s : State) : State :=
  { s with inFifo := rest, incnt := s.incnt + BitVec.ofNat 64 n }

/-- The state after `out` has been emitted. -/
def State.emitted (out : List Byte) (s : State) : State :=
  { s with outFifo := s.outFifo ++ out, outcnt := s.outcnt + BitVec.ofNat 64 out.length }

/-- The state after `bytes` have been taken into the block buffer of `work`, `rest` being left. -/
def State.buffered (c : Cfg) (work : List Byte → Work) (bytes : List Byte) (rest : List Token) (s : State) : State :=
  (s.taken bytes.length rest).continueWith c (work bytes)

/-- The state after one block of a stream: `n` data tokens taken, the counters advanced and `out` emitted. -/
def State.coded (c : Cfg) (n : Nat) (out : List Byte) (rest : List Token) (s : State) : State :=
  ((s.taken n rest).advanceNonce c).emitted out

section
variable {s : State} {c : Cfg} {work : List Byte → Work} {rest : List Token}

theorem ofNat64_add (x : Reg) (m n : Nat) :
    x + BitVec.ofNat 64 m + BitVec.ofNat 64 n = x + BitVec.ofNat 64 (m + n) := by
  rw [BitVec.ofNat_add, BitVec.add_assoc]

theorem taken_none : s.taken 0 rest = { s with inFifo := rest } := by simp [State.taken]

theorem taken_zero (h : s.inFifo = rest) : s.taken 0 rest = s := by rw [taken_none, ← h]

/-- One more data token taken. -/
theorem taken_succ (n : Nat) (mid : List Token) :
    { s.taken n mid with inFifo := rest, incnt := (s.taken n mid).incnt + 1 } = s.taken (n + 1) rest :=
  congrArg (fun x => { s with inFifo := rest, incnt := x }) (ofNat64_add s.incnt n 1)

/-- One more byte buffered. -/
theorem buffered_concat (bytes : List Byte) (b : Byte) (mid : List Token) :
    { s.buffered c work bytes mid with
        inFifo := rest, incnt := (s.buffered c work bytes mid).incnt + 1, seq := .run c (work (bytes ++ [b])) }
      = s.buffered c work (bytes ++ [b]) rest := by
  rw [State.buffered, State.buffered, List.length_append, List.length_singleton, ← taken_succ bytes.length mid]
  rfl

theorem emitted_nil : s.emitted [] = s := by simp [State.emitted]

theorem emitted_emitted (out out' : List Byte) : (s.emitted out).emitted out' = s.emitted (out ++ out') := by
  simp [State.emitted, ofNat64_add]

/-- `emitThen` sets the sequencer, whatever it was. -/
theorem emitThen_setSeq (out : List Byte) (last : Bool) (q : Seq) :
    State.emitThen c work out last { s with seq := q } = s.emitThen c work out last := by
  unfold State.emitThen
  split <;> rfl

/-! ### Buffering -/

theorem engineTurn_senc_take {buf : List Byte} {last : Bool} (hs : s.seq = .run c (.senc buf [] last)) :
    engineTurn s = .next (sencTake c buf s) := (engineTurn_run hs).trans (exec_senc_take hs)

theorem engineTurn_sdec_take {buf : List Byte} {held : Option (List Byte)} {last : Bool}
    (hs : s.seq = .run c (.sdec buf held [] last)) : engineTurn s = .next (sdecTake c buf held s) :=
  (engineTurn_run hs).trans (exec_sdec_take hs)

/-- With `work buf` the command takes a byte that does not fill the block by putting it after `buf` (R242, R246). -/
def BuffersBytes (c : Cfg) (work : List Byte → Work) : Prop :=
  ∀ (s : State) (buf : List Byte) (b : Byte) (rest : List Token),
    s.seq = .run c (work buf) → s.inFifo = .data b :: rest → buf.length + 1 ≠ blockBytes s.params.bits c.n →
      engineTurn s = .next { s with inFifo := rest, incnt := s.incnt + 1, seq := .run c (work (buf ++ [b])) }

theorem senc_buffersBytes (c : Cfg) : BuffersBytes c (.senc · [] false) := fun _ _ _ _ hs hin hroom =>
  (engineTurn_senc_take hs).trans (congrArg _ (sencTake_partial hin hroom))

theorem sdec_buffersBytes (c : Cfg) (held : Option (List Byte)) : BuffersBytes c (.sdec · held [] false) :=
  fun _ _ _ _ hs hin hroom => (engineTurn_sdec_take hs).trans (congrArg _ (sdecTake_partial hin hroom))

/-- Bytes that do not fill the block are buffered, one by one. -/
theorem BuffersBytes.reaches (hwork : BuffersBytes c work) (hs : s.seq = .run c (work [])) {bytes : List Byte}
    (hin : s.inFifo = bytes.map .data ++ rest) (hroom : bytes.length < blockBytes s.params.bits c.n) :
    EngineReaches s (s.buffered c work bytes rest) := by
  induction bytes using List.reverseRecOn generalizing rest with
  | nil =>
    have hnone : s.buffered c work [] rest = s := by
      rw [State.buffered, List.length_nil, taken_zero (rest := rest) hin, State.continueWith, ← hs]
    rw [hnone]
  | append_singleton bytes b ih =>
    rw [List.length_append] at hroom
    have hbytes := ih (rest := .data b :: rest) (by simpa using hin) (Nat.lt_of_succ_lt hroom)
    have hstep := hwork (s.buffered c work bytes (.data b :: rest)) bytes b rest rfl rfl hroom.ne
    exact hbytes.tail (hstep.trans (congrArg _ (buffered_concat ..)))

/-- A whole block: all its bytes but the last are buffered, and the last is at the head of the IN FIFO. -/
theorem BuffersBytes.reaches_full (hwork : BuffersBytes c work) (hs : s.seq = .run c (work [])) {p : List Byte}
    (hin : s.inFifo = p.map .data ++ rest) (hp : p.length = blockBytes s.params.bits c.n)
    (hpos : 0 < blockBytes s.params.bits c.n) :
    ∃ (init : List Byte) (b : Byte), p = init ++ [b] ∧ init.length + 1 = blockBytes s.params.bits c.n
      ∧ EngineReaches s (s.buffered c work init (.data b :: rest)) := by
  obtain rfl | ⟨init, b, rfl⟩ := List.eq_nil_or_concat p
  · exact absurd hp hpos.ne
  · rw [List.concat_eq_append] at hin hp ⊢
    have hlen : init.length + 1 = blockBytes s.params.bits c.n := by simpa using hp
    exact ⟨init, b, rfl, hlen, hwork.reaches hs (by simpa using hin) (Nat.lt_of_succ_le hlen.le)⟩

/-! ### Emitting -/

/-- With bytes left to emit, `work` of them, the command is at `emit()` (R91). -/
def EmitsBytes (c : Cfg) (work : List Byte → Work) (last : Bool) : Prop :=
  ∀ (s : State) (b : Byte) (out : List Byte),
    s.seq = .run c (work (b :: out)) → engineTurn s = .next (emitStep c work b out last s)

theorem senc_emitsBytes (c : Cfg) (last : Bool) : EmitsBytes c (.senc [] · last) last := fun _ _ _ hs =>
  (engineTurn_run hs).trans (exec_senc_emit hs)

theorem sdec_emitsBytes (c : Cfg) (held : Option (List Byte)) (last : Bool) :
    EmitsBytes c (.sdec [] held · last) last := fun _ _ _ hs => (engineTurn_run hs).trans (exec_sdec_emit hs)

/-- With room in the OUT FIFO the next byte is emitted. -/
theorem EmitsBytes.step {last : Bool} (hwork : EmitsBytes c work last) (b : Byte) (out : List Byte)
    (hroom : s.outFifo.length < s.params.outDepth) :
    engineTurn (s.emitThen c work (b :: out) last) = .next ((s.emitted [b]).emitThen c work out last) := by
  rw [emitThen_cons, hwork _ b out rfl]
  have hemit := emitStep_room (s := s.continueWith c (work (b :: out))) (c := c) work b out last hroom
  exact congrArg _ (hemit.trans (emitThen_setSeq (s := s.emitted [b]) ..))

/-- With room for all of them the bytes left are emitted. -/
theorem EmitsBytes.reaches {last : Bool} (hwork : EmitsBytes c work last) {out : List Byte}
    (hroom : s.outFifo.length + out.length ≤ s.params.outDepth) :
    EngineReaches (s.emitThen c work out last) ((s.emitted out).emitThen c work [] last) := by
  induction out generalizing s with
  | nil => rw [emitted_nil]
  | cons b out ih =>
    rw [List.length_cons] at hroom
    have hout := ih (s := s.emitted [b]) (by simp [State.emitted]; omega)
    rw [emitted_emitted] at hout
    exact .head (hwork.step b out (by omega)) hout

/-! ### A whole run -/

/-- The run of a command from `s` to its completion with error 0 in `t`: it takes `n` data tokens, codes `blocks` blocks,
emits `out`, and leaves `rest` queued. -/
structure CodecRun (c : Cfg) (s t : State) (n blocks : Nat) (out : List Byte) (rest : List Token) : Prop where
  reaches : EngineReaches s t
  idle : t.seq = .idle
  err : t.err = .none
  done : t.done = true
  inFifo : t.inFifo = rest
  incnt : t.incnt = s.incnt + BitVec.ofNat 64 n
  outFifo : t.outFifo = s.outFifo ++ out
  outcnt : t.outcnt = s.outcnt + BitVec.ofNat 64 out.length
  blkcnt : t.blkcnt = s.blkcnt + BitVec.ofNat 64 blocks
  nonce : loadBlock s.params.bits c.n t.nonce = nonceAfter c.n blocks (s.nonceBlock c)
  blk : t.blk = s.blk

/-! ### What one block leaves, field by field -/

theorem coded_params (n : Nat) (out : List Byte) : (s.coded c n out rest).params = s.params := by rfl
theorem coded_incnt (n : Nat) (out : List Byte) :
    (s.coded c n out rest).incnt = s.incnt + BitVec.ofNat 64 n := by rfl
theorem coded_outFifo (n : Nat) (out : List Byte) : (s.coded c n out rest).outFifo = s.outFifo ++ out := by rfl
theorem coded_outcnt (n : Nat) (out : List Byte) :
    (s.coded c n out rest).outcnt = s.outcnt + BitVec.ofNat 64 out.length := by rfl
theorem coded_blkcnt (n : Nat) (out : List Byte) :
    (s.coded c n out rest).blkcnt = s.blkcnt + BitVec.ofNat 64 1 := by rfl
theorem coded_nonce_length (n : Nat) (out : List Byte) : (s.coded c n out rest).nonce.length = s.nonce.length :=
  storeBlock_length _ s.nonce
theorem coded_blk (n : Nat) (out : List Byte) : (s.coded c n out rest).blk = s.blk := by rfl

/-- The nonce after one block (42_mode_composer.md R221). -/
theorem coded_nonceBlock (hn : c.n ≤ s.nonce.length) (n : Nat) (out : List Byte) :
    (s.coded c n out rest).nonceBlock c = nonceInc c.n (s.nonceBlock c) :=
  loadBlock_storeBlock (bits_le s.params.width) _ _ ((nonceInc_length ..).trans (nonceBlock_length c s)) hn

/-- What the next block is computed from: the same key material, and the nonce one on (R243). The types of these depend on the
state's width, so this is said of any function of them. -/
theorem coded_operands {α : Type} (f : ∀ {w : Nat}, CipherCtx w → Block w → α) (hn : c.n ≤ s.nonce.length)
    (n : Nat) (out : List Byte) (next : Work) :
    f (((s.coded c n out rest).continueWith c next).cipher c) (((s.coded c n out rest).continueWith c next).nonceBlock c)
      = f (s.cipher c) (nonceInc c.n (s.nonceBlock c)) := by
  rw [← coded_nonceBlock (rest := rest) hn n out]
  cases s
  rfl

/-- What the run of `blocks` blocks asks of the state it starts in: a block of at least one byte, a `NONCE` that holds a
Block, and room for the output. -/
structure State.ReadyFor (c : Cfg) (blocks : Nat) (s : State) : Prop where
  size : 0 < blockBytes s.params.bits c.n
  nonce : c.n ≤ s.nonce.length
  room : s.outFifo.length + blockBytes s.params.bits c.n * blocks ≤ s.params.outDepth

theorem State.ReadyFor.room_one {m : Nat} (h : s.ReadyFor c (m + 1)) :
    s.outFifo.length + blockBytes s.params.bits c.n ≤ s.params.outDepth :=
  (Nat.add_le_add_left (Nat.le_mul_of_pos_right _ m.succ_pos) _).trans h.room

/-- After a block that emitted as many bytes as it has, the state is ready for the blocks after it. -/
theorem State.ReadyFor.coded {m : Nat} (h : s.ReadyFor c (m + 1)) {out : List Byte}
    (hout : out.length = blockBytes s.params.bits c.n) (n : Nat) (next : Work) :
    ((s.coded c n out rest).continueWith c next).ReadyFor c m where
  size := by rw [State.continueWith_params, coded_params]; exact h.size
  nonce := by rw [State.continueWith_nonce, coded_nonce_length]; exact h.nonce
  room := by
    rw [State.continueWith_params, coded_params, State.continueWith_outFifo, coded_outFifo, List.length_append, hout,
      Nat.add_assoc, Nat.add_comm (blockBytes ..), ← Nat.mul_succ]
    exact h.room

/-- A run of one block, the last. -/
theorem CodecRun.last (hn : c.n ≤ s.nonce.length) {n : Nat} {out : List Byte}
    (h : EngineReaches s ((s.coded c n out rest).complete .none)) :
    CodecRun c s ((s.coded c n out rest).complete .none) n 1 out rest where
  reaches := h
  idle := rfl
  err := rfl
  done := rfl
  inFifo := rfl
  incnt := by rw [State.complete_incnt, coded_incnt]
  outFifo := by rw [State.complete_outFifo, coded_outFifo]
  outcnt := by rw [State.complete_outcnt, coded_outcnt]
  blkcnt := by rw [State.complete_blkcnt, coded_blkcnt]
  nonce := coded_nonceBlock hn n out
  blk := by rw [State.complete_blk, coded_blk]

/-- A block, and the run from the state after it. -/
theorem CodecRun.block (hn : c.n ≤ s.nonce.length) {n m blocks : Nat} {out out' : List Byte} {mid : List Token}
    {next : Work} {t : State} (h : EngineReaches s ((s.coded c n out mid).continueWith c next))
    (hrun : CodecRun c ((s.coded c n out mid).continueWith c next) t m blocks out' rest) :
    CodecRun c s t (n + m) (blocks + 1) (out ++ out') rest where
  reaches := h.trans hrun.reaches
  idle := hrun.idle
  err := hrun.err
  done := hrun.done
  inFifo := hrun.inFifo
  incnt := by rw [hrun.incnt, State.continueWith_incnt, coded_incnt, ofNat64_add]
  outFifo := by rw [hrun.outFifo, State.continueWith_outFifo, coded_outFifo, List.append_assoc]
  outcnt := by rw [hrun.outcnt, State.continueWith_outcnt, coded_outcnt, ofNat64_add, List.length_append]
  blkcnt := by rw [hrun.blkcnt, State.continueWith_blkcnt, coded_blkcnt, ofNat64_add, Nat.add_comm 1]
  nonce := by
    rw [nonceAfter, ← coded_nonceBlock (rest := mid) hn n out]
    cases s
    exact hrun.nonce
  blk := by rw [hrun.blk, State.continueWith_blk, coded_blk]

/-! ### `SENC` -/

/-- The step that takes the last byte of a block. -/
theorem senc_full_step {init : List Byte} {b : Byte} (hlen : init.length + 1 = blockBytes s.params.bits c.n) :
    engineTurn (s.buffered c (.senc · [] false) init (.data b :: rest))
      = .next (((s.taken (init.length + 1) rest).advanceNonce c).emitThen c (.senc [] · false)
          (sencBlockBytes c s (init ++ [b])) false) := by
  rw [engineTurn_senc_take (s := s.buffered ..) rfl, sencTake_full (s := s.buffered ..) rfl hlen, emitThen_false,
    emitThen_false, ← taken_succ init.length (.data b :: rest)]
  rfl

/-- The step that takes EOF (R242). -/
theorem senc_eof_step (tail : List Byte) :
    engineTurn (s.buffered c (.senc · [] false) tail (.eof :: rest))
      = .next (((s.taken tail.length rest).advanceNonce c).emitThen c (.senc [] · true)
          (sencBlockBytes c s (tail ++ [sentinel])) true) := by
  rw [engineTurn_senc_take (s := s.buffered ..) rfl, sencTake_eof (s := s.buffered ..) rfl]
  exact congrArg _ (emitThen_setSeq (s := (s.taken tail.length rest).advanceNonce c) ..)

/-- A block below the last: taken, encrypted and emitted (R242, R243). -/
theorem senc_block {m : Nat} {p : List Byte} (hs : s.seq = .run c (.senc [] [] false))
    (hin : s.inFifo = p.map .data ++ rest) (hp : p.length = blockBytes s.params.bits c.n) (hready : s.ReadyFor c (m + 1)) :
    EngineReaches s ((s.coded c p.length (sencBlockBytes c s p) rest).continueWith c (.senc [] [] false)) := by
  obtain ⟨init, b, rfl, hlen, hbuf⟩ := (senc_buffersBytes c).reaches_full hs hin hp hready.size
  have hemit := (senc_emitsBytes c false).reaches (s := (s.taken (init.length + 1) rest).advanceNonce c)
    (out := sencBlockBytes c s (init ++ [b])) (by rw [sencBlockBytes_length]; exact hready.room_one)
  rw [emitThen_false (out := [])] at hemit
  rw [List.length_append]
  exact (hbuf.tail (senc_full_step hlen)).trans hemit

/-- The last block, which may hold the sentinel alone (R242, R244). -/
theorem senc_last {m : Nat} {tail : List Byte} (hs : s.seq = .run c (.senc [] [] false))
    (hin : s.inFifo = tail.map .data ++ .eof :: rest) (htail : tail.length < blockBytes s.params.bits c.n)
    (hready : s.ReadyFor c (m + 1)) :
    EngineReaches s ((s.coded c tail.length (sencBlockBytes c s (tail ++ [sentinel])) rest).complete .none) := by
  have hbuf := (senc_buffersBytes c).reaches hs hin htail
  have hemit := (senc_emitsBytes c true).reaches (s := (s.taken tail.length rest).advanceNonce c)
    (out := sencBlockBytes c s (tail ++ [sentinel])) (by rw [sencBlockBytes_length]; exact hready.room_one)
  exact (hbuf.tail (senc_eof_step tail)).trans hemit

/-- `SENC` of whole blocks and a shorter tail (R242 to R244). -/
theorem senc_run {blocks : List (List Byte)} {tail : List Byte} (hs : s.seq = .run c (.senc [] [] false))
    (hin : s.inFifo = (blocks.flatten ++ tail).map .data ++ .eof :: rest)
    (hblocks : ∀ p ∈ blocks, p.length = blockBytes s.params.bits c.n)
    (htail : tail.length < blockBytes s.params.bits c.n) (hready : s.ReadyFor c (blocks.length + 1)) :
    ∃ t, CodecRun c s t (blocks.flatten ++ tail).length (blocks.length + 1)
      (sencStream (s.cipher c) (s.nonceBlock c) (blocks ++ [tail ++ [sentinel]])).flatten rest := by
  induction blocks generalizing s with
  | nil =>
    have hone := CodecRun.last hready.nonce (senc_last hs hin htail hready)
    rw [← List.append_nil (sencBlockBytes ..)] at hone
    exact ⟨_, hone⟩
  | cons p ps ih =>
    obtain ⟨hp, hps⟩ := List.forall_mem_cons.1 hblocks
    have hblock := senc_block (rest := (ps.flatten ++ tail).map .data ++ .eof :: rest) hs (by simpa using hin) hp hready
    obtain ⟨t, hrun⟩ := ih (s := (s.coded c p.length (sencBlockBytes c s p) _).continueWith c _) rfl rfl
      (by rwa [State.continueWith_params, coded_params]) (by rwa [State.continueWith_params, coded_params])
      (hready.coded (sencBlockBytes_length c s p) ..)
    rw [coded_operands (fun k v => (sencStream k v (ps ++ [tail ++ [sentinel]])).flatten) hready.nonce] at hrun
    have hlen : ((p :: ps).flatten ++ tail).length = p.length + (ps.flatten ++ tail).length := by simp
    rw [hlen]
    exact ⟨t, hrun.block hready.nonce hblock⟩

/-! ### `SDEC` -/

/-- The step that takes the last byte of the first block (R246). -/
theorem sdec_first_step {init : List Byte} {b : Byte} (hlen : init.length + 1 = blockBytes s.params.bits c.n) :
    engineTurn (s.buffered c (.sdec · none [] false) init (.data b :: rest))
      = .next ((s.taken (init.length + 1) rest).continueWith c (.sdec [] (some (init ++ [b])) [] false)) := by
  rw [engineTurn_sdec_take (s := s.buffered ..) rfl, sdecTake_full (s := s.buffered ..) rfl hlen,
    ← taken_succ init.length (.data b :: rest)]
  rfl

/-- The step that takes the last byte of a later block, the one before it being held (R246, R247). -/
theorem sdec_full_step (ct : List Byte) {init : List Byte} {b : Byte}
    (hlen : init.length + 1 = blockBytes s.params.bits c.n) :
    engineTurn (s.buffered c (.sdec · (some ct) [] false) init (.data b :: rest))
      = .next (((s.taken (init.length + 1) rest).advanceNonce c).emitThen c (.sdec [] (some (init ++ [b])) · false)
          (sdecBlockBytes c s ct) false) := by
  rw [engineTurn_sdec_take (s := s.buffered ..) rfl, sdecTake_full (s := s.buffered ..) rfl hlen, sdecBlockTaken_held,
    emitThen_false, ← taken_succ init.length (.data b :: rest)]
  rfl

/-- The step that takes EOF at a block boundary (R248). -/
theorem sdec_eof_step {ct : List Byte} (hs : s.seq = .run c (.sdec [] (some ct) [] false))
    (hin : s.inFifo = .eof :: rest) :
    engineTurn s
      = .next (((s.taken 0 rest).advanceNonce c).emitThen c (.sdec [] none · true) (stripPadding (sdecBlockBytes c s ct))
          true) := by
  rw [engineTurn_sdec_take hs, sdecTake_eof hin, sdecEof_held, emitThen_true, taken_none]
  rfl

/-- The first block is held, and nothing is emitted (R246). -/
theorem sdec_first {ct : List Byte} (hs : s.seq = .run c (.sdec [] none [] false))
    (hin : s.inFifo = ct.map .data ++ rest) (hct : ct.length = blockBytes s.params.bits c.n)
    (hpos : 0 < blockBytes s.params.bits c.n) :
    EngineReaches s ((s.taken ct.length rest).continueWith c (.sdec [] (some ct) [] false)) := by
  obtain ⟨init, b, rfl, hlen, hbuf⟩ := (sdec_buffersBytes c none).reaches_full hs hin hct hpos
  rw [List.length_append]
  exact hbuf.tail (sdec_first_step hlen)

/-- A later block is held, and the one held before it is decrypted and emitted (R246, R247). -/
theorem sdec_block {m : Nat} {ct ct' : List Byte} (hs : s.seq = .run c (.sdec [] (some ct) [] false))
    (hin : s.inFifo = ct'.map .data ++ rest) (hct' : ct'.length = blockBytes s.params.bits c.n)
    (hready : s.ReadyFor c (m + 1)) :
    EngineReaches s
      ((s.coded c ct'.length (sdecBlockBytes c s ct) rest).continueWith c (.sdec [] (some ct') [] false)) := by
  obtain ⟨init, b, rfl, hlen, hbuf⟩ := (sdec_buffersBytes c (some ct)).reaches_full hs hin hct' hready.size
  have hemit := (sdec_emitsBytes c (some (init ++ [b])) false).reaches
    (s := (s.taken (init.length + 1) rest).advanceNonce c) (out := sdecBlockBytes c s ct)
    (by rw [sdecBlockBytes_length]; exact hready.room_one)
  rw [emitThen_false (out := [])] at hemit
  rw [List.length_append]
  exact (hbuf.tail (sdec_full_step ct hlen)).trans hemit

/-- EOF: the held block is decrypted, and the bytes before its last non-zero one are emitted (R248). -/
theorem sdec_last {m : Nat} {ct : List Byte} (hs : s.seq = .run c (.sdec [] (some ct) [] false))
    (hin : s.inFifo = .eof :: rest) (hready : s.ReadyFor c (m + 1)) :
    EngineReaches s ((s.coded c 0 (stripPadding (sdecBlockBytes c s ct)) rest).complete .none) := by
  have hshort := (stripPadding_length_le (sdecBlockBytes c s ct)).trans_eq (sdecBlockBytes_length c s ct)
  have hemit := (sdec_emitsBytes c none true).reaches (s := (s.taken 0 rest).advanceNonce c)
    (out := stripPadding (sdecBlockBytes c s ct)) ((Nat.add_le_add_left hshort _).trans hready.room_one)
  exact .head (sdec_eof_step hs hin) hemit

/-- `SDEC` of whole ciphertext blocks, the first of them held (R246 to R248). -/
theorem sdec_run {ct : List Byte} {cts : List (List Byte)} (hs : s.seq = .run c (.sdec [] (some ct) [] false))
    (hin : s.inFifo = cts.flatten.map .data ++ .eof :: rest)
    (hcts : ∀ ct' ∈ cts, ct'.length = blockBytes s.params.bits c.n) (hready : s.ReadyFor c (cts.length + 1)) :
    ∃ t, CodecRun c s t cts.flatten.length (cts.length + 1) (sdecStream (s.cipher c) (s.nonceBlock c) ct cts) rest := by
  induction cts generalizing s ct with
  | nil => exact ⟨_, CodecRun.last hready.nonce (sdec_last hs hin hready)⟩
  | cons ct' cts ih =>
    obtain ⟨hct', hcts⟩ := List.forall_mem_cons.1 hcts
    have hblock := sdec_block (rest := cts.flatten.map .data ++ .eof :: rest) hs (by simpa using hin) hct' hready
    obtain ⟨t, hrun⟩ := ih (s := (s.coded c ct'.length (sdecBlockBytes c s ct) _).continueWith c _) rfl rfl
      (by rwa [State.continueWith_params, coded_params]) (hready.coded (sdecBlockBytes_length c s ct) ..)
    rw [coded_operands (fun k v => sdecStream k v ct' cts) hready.nonce] at hrun
    have hlen : (ct' :: cts).flatten.length = ct'.length + cts.flatten.length := by simp
    rw [hlen]
    exact ⟨t, hrun.block hready.nonce hblock⟩

/-- `SDEC` of whole ciphertext blocks, at least one (R246 to R248). -/
theorem sdec_run_first {ct : List Byte} {cts : List (List Byte)} (hs : s.seq = .run c (.sdec [] none [] false))
    (hin : s.inFifo = (ct :: cts).flatten.map .data ++ .eof :: rest)
    (hcts : ∀ ct' ∈ ct :: cts, ct'.length = blockBytes s.params.bits c.n) (hready : s.ReadyFor c (cts.length + 1)) :
    ∃ t, EngineReaches s t ∧ t.seq = .idle ∧ t.err = .none ∧ t.inFifo = rest
      ∧ t.outFifo = s.outFifo ++ sdecStream (s.cipher c) (s.nonceBlock c) ct cts := by
  obtain ⟨hct, hcts⟩ := List.forall_mem_cons.1 hcts
  have hfirst := sdec_first (rest := cts.flatten.map .data ++ .eof :: rest) hs (by simpa using hin) hct hready.size
  obtain ⟨t, hrun⟩ := sdec_run (s := (s.taken ct.length (cts.flatten.map .data ++ .eof :: rest)).continueWith c
    (.sdec [] (some ct) [] false)) rfl rfl hcts ⟨hready.size, hready.nonce, hready.room⟩
  refine ⟨t, hfirst.trans hrun.reaches, hrun.idle, hrun.err, hrun.inFifo, ?_⟩
  cases s
  exact hrun.outFifo

end

/-! ### The statements -/

/-- Settles O33: the plaintext is whole blocks and a shorter tail, of which `SENC` makes one ciphertext block each
(`senc_run`). -/
theorem sencOutputCount : Obligations.SencOutputCount := by
  intro s c pt rest hvalid hn hs hin bb blocks hroom
  have hpos := blockBytes_pos hvalid
  obtain ⟨ps, tail, rfl, hps, htail⟩ := exists_blocks hpos pt
  have hblocks : blocks = ps.length + 1 := congrArg (· + 1) (blocks_length hps htail)
  rw [hblocks] at hroom ⊢
  obtain ⟨t, hrun⟩ := senc_run hs hin hps htail ⟨hpos, hn, hroom⟩
  obtain ⟨k, hk⟩ := hrun.reaches.exists_engineSteps
  have hlen : (sencStream (s.cipher c) (s.nonceBlock c) (ps ++ [tail ++ [sentinel]])).flatten.length
      = bb * (ps.length + 1) :=
    (sencStream_flatten_length (cipher_key_length c s) (nonceBlock_length c s) _).trans (by rw [List.length_append]; rfl)
  exact ⟨k, t, hk, hrun.idle, hrun.err, hrun.done, by rw [hrun.outFifo, List.length_append, hlen],
    by rw [hrun.outcnt, hlen], hrun.incnt, hrun.blkcnt, hrun.nonce, hrun.inFifo, hrun.blk⟩

/-- Settles O34: `SENC` emits the ciphertext blocks of the plaintext (`senc_run`), `SDEC` reads just these
(`sdec_run_first`), and what it makes of them is the plaintext (`sdecStream_sencStream`). -/
theorem sdecOfSencIsThePlaintext : Obligations.SdecOfSencIsThePlaintext := by
  intro s c pt rest rest' hvalid hn hs hin hout hroom
  have hpos := blockBytes_pos hvalid
  obtain ⟨-, ⟨hn2, -⟩, -⟩ := (cfgValid_iff s.params c).1 hvalid
  obtain ⟨ps, tail, rfl, hps, htail⟩ := exists_blocks hpos pt
  rw [blocks_length hps htail] at hroom
  have hempty : s.outFifo.length + blockBytes s.params.bits c.n * (ps.length + 1) ≤ s.params.outDepth := by
    simpa [hout] using hroom
  obtain ⟨t, henc⟩ := senc_run hs hin hps htail ⟨hpos, hn, hempty⟩
  obtain ⟨k, hk⟩ := henc.reaches.exists_engineSteps
  have hlens := sencStream_block_length (cipher_key_length c s) (nonceBlock_length c s) (ps ++ [tail ++ [sentinel]])
  obtain ⟨ct, cts, hstream, hcts⟩ : ∃ ct cts,
      ct :: cts = sencStream (s.cipher c) (s.nonceBlock c) (ps ++ [tail ++ [sentinel]]) ∧ cts.length = ps.length :=
    List.length_eq_succ_iff.1 (by rw [sencStream_length, List.length_append]; rfl)
  have hplain := sdecStream_sencStream (bits_eq_bytes s.params.width) hn2 (cipher_key_length c s)
    (nonceBlock_length c s) hps htail hstream.symm
  have htout : t.outFifo = (ct :: cts).flatten := by rw [henc.outFifo, hout, ← hstream, List.nil_append]
  rw [← hstream] at hlens
  obtain ⟨v, hdec, hidle, herr, hrest, hvout⟩ := sdec_run_first
    (s := { s with seq := .run c (.sdec [] none [] false), inFifo := t.outFifo.map .data ++ .eof :: rest' })
    (rest := rest') rfl (by rw [htout]) hlens ⟨hpos, hn, by rw [hcts]; exact hempty⟩
  obtain ⟨k', hk'⟩ := EngineReaches.exists_engineSteps hdec
  refine ⟨k, t, k', v, hk, henc.idle, henc.err, hk', hidle, herr, ?_, hrest⟩
  rw [hout, List.nil_append] at hvout
  cases s
  exact hvout.trans hplain

end Sys2Proof.Machine

/-! PROOFS. Control (44_control.md): what `CTRL` does (section 3), what a write and a read do while a command runs (section 4),
and which engine steps change the state (section 5). An engine step is one `take()`, one `emit()` or a whole command, and each
of the three shows in its own part of the state: the IN FIFO, the OUT FIFO, the sequencer. -/

namespace Sys2Proof.Machine

section
variable {s : State} {c : Cfg} {work : Work}

/-! ### `CTRL` (section 3) -/

theorem writeCtrl_of_srst {v : Reg} (hv : v.getLsbD 1 = true) : s.writeCtrl v = s.resetEngine := if_pos hv

/-- INFLUSH (R274, R278). -/
theorem guarded_flushIn (s : State) :
    s.guarded State.flushIn
      = { s with inFifo := if !s.busy then [] else s.inFifo, wdrop := s.busy || s.wdrop } := by
  cases hb : s.busy with
  | true => exact guarded_busy hb _
  | false => exact guarded_idle hb _

/-- OUTFLUSH (R275, R278). -/
theorem guarded_flushOut (s : State) :
    s.guarded State.flushOut
      = { s with outFifo := if !s.busy then [] else s.outFifo, wdrop := s.busy || s.wdrop } := by
  cases hb : s.busy with
  | true => exact guarded_busy hb _
  | false => exact guarded_idle hb _

/-- Without SRST (R273 to R275, R278): IE is stored, and each flush acts while no command runs. -/
theorem writeCtrl_of_not_srst {v : Reg} (hv : v.getLsbD 1 = false) :
    s.writeCtrl v =
      { s with
        ie := v.getLsbD 0
        inFifo := if v.getLsbD 2 && !s.busy then [] else s.inFifo
        outFifo := if v.getLsbD 3 && !s.busy then [] else s.outFifo
        wdrop := if (v.getLsbD 2 || v.getLsbD 3) && s.busy then true else s.wdrop } := by
  unfold State.writeCtrl
  rw [if_neg (ne_true_of_eq_false hv)]
  simp only [guarded_flushIn, guarded_flushOut]
  cases v.getLsbD 2 <;> cases v.getLsbD 3 <;> simp [State.busy]

/-! ### Writes while a command runs (R278) -/

theorem writeCmd_busy (hb : s.busy = true) (v : Reg) : s.writeCmd v = .next s.dropWrite := if_pos hb

/-- From `s` to `t` nothing changes but IE, the flags a host write can change and the IN FIFO. -/
def KeepsOperands (s t : State) : Prop :=
  t = { s with ie := t.ie, done := t.done, wdrop := t.wdrop, inovf := t.inovf, inFifo := t.inFifo }

/-- A `CTRL` write without SRST flushes nothing while a command runs. -/
theorem writeCtrl_keepsOperands {v : Reg} (hb : s.busy = true) (hv : v.getLsbD 1 = false) :
    KeepsOperands s (s.writeCtrl v) := by
  simp [KeepsOperands, writeCtrl_of_not_srst hv, hb]

theorem writeStatus_keepsOperands (v : Reg) (s : State) : KeepsOperands s (s.writeStatus v) := rfl

/-- An `INPUSH` write touches the IN FIFO and `INOVF` only (R48). -/
theorem pushIn_keepsOperands (v : Reg) (s : State) : KeepsOperands s (s.pushIn v) := by
  unfold State.pushIn
  split <;> rfl

/-! ### Reads while a command runs (R279) -/

/-- A word the running command does not write reads as it is held. -/
theorem readWord_of_not_written {writes : Instr → Bool} {j : Nat} (hs : s.seq = .run c work)
    (h : writes work.op = false ∨ c.n ≤ j) (regs : List Reg) : s.readWord writes regs j = (regs.getD j 0, s) := by
  have hstable : s.unstableWord writes j = false := by
    obtain hw | hj := h
    · simp [State.unstableWord, hs, hw]
    · simp [State.unstableWord, hs, hj]
  simp [State.readWord, hstable]

theorem readReg_blkcnt_of_not_written (hs : s.seq = .run c work) (h : writesBlkcnt work.op = false) :
    s.readReg .blkcnt = (s.blkcnt, s) := by
  simp [State.readReg, State.unstable, hs, h]

theorem writesBlk_eq_false {i : Instr} (h : i ∉ [Instr.mix, .unmix, .benc, .bdec, .menc, .mdec]) :
    writesBlk i = false := by
  revert h; cases i <;> decide

theorem writesNonce_eq_false {i : Instr} (h : i ∉ [Instr.nseed, .menc, .mdec, .ninc, .senc, .sdec]) :
    writesNonce i = false := by
  revert h; cases i <;> decide

theorem writesPwc_eq_false {i : Instr} (h : i ∉ [Instr.pwchk, .pwver]) : writesPwc i = false := by
  revert h; cases i <;> decide

theorem writesBlkcnt_eq_false {i : Instr} (h : i ∉ [Instr.menc, .mdec, .senc, .sdec]) : writesBlkcnt i = false := by
  revert h; cases i <;> decide

/-- Key material is hidden while a `KSCHED` runs, for `KVALID` is 0 then (R55). -/
theorem readReg_key_of_ksched (hinv : s.Inv) (hs : s.seq = .run c work) (hop : work.op = .ksched) (j : Nat) :
    s.readReg (.key j) = (0, s) ∧ s.readReg .sdata = (0, s) := by
  obtain ⟨-, -, -, -, -, hksched, -⟩ := hinv.running hs
  have hk : s.kvalid = false := hksched hop
  obtain ⟨-, hsdata, -, -, hkey, -⟩ := keyReadsAreGatedByKvalid s j 0
  exact ⟨hkey (.inr hk), hsdata (.inr (.inl hk))⟩

/-! ### The IN FIFO after a step that takes a token (R90) -/

@[simp] theorem emitThen_inFifo (f : List Byte → Work) (out : List Byte) (last : Bool) (s : State) :
    (s.emitThen c f out last).inFifo = s.inFifo := by
  unfold State.emitThen
  split <;> rfl

theorem inFifo_tail_of_failed {rest : List Token} (h : s.inFifo = .err :: rest ∨ s.inFifo = .reserved :: rest) :
    s.inFifo.tail = rest := by
  obtain h | h := h <;> rw [h, List.tail_cons]

theorem ksBytesStep_inFifo (k : List Reg) (buf : List Byte) (total : Nat) (s : State) :
    (ksBytesStep c k buf total s).inFifo = s.inFifo.tail := by
  obtain h | ⟨b, rest, h⟩ | ⟨rest, h⟩ | ⟨rest, h⟩ := inFifo_cases s
  · rw [ksBytesStep_empty h, h, List.tail_nil]
  · rw [ksBytesStep_data h, h, List.tail_cons]
  · rw [ksBytesStep_eof h, h]; rfl
  · rw [ksBytesStep_failed h, inFifo_tail_of_failed h]; rfl

theorem ksHexStep_inFifo (k : List Reg) (nibs : List (BitVec 4)) (total : Nat) (s : State) :
    (ksHexStep c k nibs total s).inFifo = s.inFifo.tail := by
  obtain h | ⟨b, rest, h⟩ | ⟨rest, h⟩ | ⟨rest, h⟩ := inFifo_cases s
  · rw [ksHexStep_empty h, h, List.tail_nil]
  · by_cases hb : b.toNat ≤ 0x0F
    · rw [ksHexStep_data h hb, h, List.tail_cons]
    · rw [ksHexStep_badNibble h (by omega), h]; rfl
  · rw [ksHexStep_eof h, h]; rfl
  · rw [ksHexStep_failed h, inFifo_tail_of_failed h]; rfl

theorem ksDdrStep_inFifo (n : Nat) (acc : DdrAcc) (s : State) : (ksDdrStep c n acc s).inFifo = s.inFifo.tail := by
  obtain h | ⟨b, rest, h⟩ | ⟨rest, h⟩ | ⟨rest, h⟩ := inFifo_cases s
  · rw [ksDdrStep_empty h, h, List.tail_nil]
  · by_cases hn : n = s.params.lMaxBytes
    · rw [ksDdrStep_tooLong h hn, h]; rfl
    · rw [ksDdrStep_data h hn, h, List.tail_cons]
  · rw [ksDdrStep_eof h, h]; rfl
  · rw [ksDdrStep_failed h, inFifo_tail_of_failed h]; rfl

theorem nseedStep_inFifo (buf : List Byte) (k : Nat) (s : State) : (nseedStep c buf k s).inFifo = s.inFifo.tail := by
  obtain h | ⟨b, rest, h⟩ | ⟨rest, h⟩ | ⟨rest, h⟩ := inFifo_cases s
  · rw [nseedStep_empty h, h, List.tail_nil]
  · rw [nseedStep_data h, h, List.tail_cons]
  · rw [nseedStep_eof h, h]; rfl
  · rw [nseedStep_failed h, inFifo_tail_of_failed h]; rfl

theorem sencTake_inFifo (buf : List Byte) (s : State) : (sencTake c buf s).inFifo = s.inFifo.tail := by
  obtain h | ⟨b, rest, h⟩ | ⟨rest, h⟩ | ⟨rest, h⟩ := inFifo_cases s
  · rw [sencTake_empty h, h, List.tail_nil]
  · by_cases hb : buf.length + 1 = blockBytes s.params.bits c.n
    · simp [sencTake_full h hb, h]
    · rw [sencTake_partial h hb, h, List.tail_cons]
  · simp [sencTake_eof h, h]
  · rw [sencTake_failed h, inFifo_tail_of_failed h]; rfl

theorem sdecBlockTaken_inFifo (held : Option (List Byte)) (blk : List Byte) (s : State) :
    (sdecBlockTaken c held blk s).inFifo = s.inFifo := by
  cases held <;> simp [sdecBlockTaken]

theorem sdecEof_inFifo (buf : List Byte) (held : Option (List Byte)) (s : State) :
    (sdecEof c buf held s).inFifo = s.inFifo := by
  cases held with
  | none => rfl
  | some blk =>
    simp only [sdecEof]
    split <;> simp

theorem sdecTake_inFifo (buf : List Byte) (held : Option (List Byte)) (s : State) :
    (sdecTake c buf held s).inFifo = s.inFifo.tail := by
  obtain h | ⟨b, rest, h⟩ | ⟨rest, h⟩ | ⟨rest, h⟩ := inFifo_cases s
  · rw [sdecTake_empty h, h, List.tail_nil]
  · by_cases hb : buf.length + 1 = blockBytes s.params.bits c.n
    · rw [sdecTake_full h hb, sdecBlockTaken_inFifo, h, List.tail_cons]
    · rw [sdecTake_partial h hb, h, List.tail_cons]
  · rw [sdecTake_eof h, sdecEof_inFifo, h, List.tail_cons]
  · rw [sdecTake_failed h, inFifo_tail_of_failed h]; rfl

/-! ### The three kinds of engine step -/

/-- At `take()` (R90): the head token is removed, and with none the command holds. -/
theorem exec_of_atTake (hs : s.seq = .run c work) (h : work.atTake = true) :
    ∃ t, exec work.op s = .next t ∧ t.inFifo = s.inFifo.tail ∧ (s.inFifo = [] → t = s) := by
  cases work with
  | ksBytes => exact ⟨_, exec_ksBytes_run hs, ksBytesStep_inFifo .., ksBytesStep_empty⟩
  | ksHex => exact ⟨_, exec_ksHex_run hs, ksHexStep_inFifo .., ksHexStep_empty⟩
  | ksDdr => exact ⟨_, exec_ksDdr_run hs, ksDdrStep_inFifo .., ksDdrStep_empty⟩
  | nseed => exact ⟨_, exec_nseed_run hs, nseedStep_inFifo .., nseedStep_empty⟩
  | senc buf out last =>
    cases out with
    | nil => exact ⟨_, exec_senc_take hs, sencTake_inFifo .., sencTake_empty⟩
    | cons => simp [Work.atTake] at h
  | sdec buf held out last =>
    cases out with
    | nil => exact ⟨_, exec_sdec_take hs, sdecTake_inFifo .., sdecTake_empty⟩
    | cons => simp [Work.atTake] at h
  | _ => simp [Work.atTake] at h

/-- At `emit()` the step is `emitStep` (R91). -/
theorem exec_of_atEmit (hs : s.seq = .run c work) (h : work.atEmit = true) :
    ∃ f b out last, exec work.op s = .next (emitStep c f b out last s) := by
  cases work with
  | senc buf out last =>
    cases out with
    | nil => simp [Work.atEmit] at h
    | cons b out => exact ⟨_, b, out, last, exec_senc_emit hs⟩
  | sdec buf held out last =>
    cases out with
    | nil => simp [Work.atEmit] at h
    | cons b out => exact ⟨_, b, out, last, exec_sdec_emit hs⟩
  | _ => simp [Work.atEmit] at h

/-- With room in the OUT FIFO a byte is added to it (R91). -/
theorem emitStep_outFifo (f : List Byte → Work) (b : Byte) (out : List Byte) (last : Bool)
    (h : s.outFifo.length < s.params.outDepth) : (emitStep c f b out last s).outFifo = s.outFifo ++ [b] := by
  rw [emitStep_room f b out last h]
  unfold State.emitThen
  split <;> rfl

/-- A command at neither completes (20_memory.md R93). -/
theorem exec_of_not_atTake_of_not_atEmit (hs : s.seq = .run c work) (htake : work.atTake = false)
    (hemit : work.atEmit = false) : ∃ code u, exec work.op s = .next (State.complete code u) := by
  cases work with
  | nop => exact ⟨_, _, exec_nop_run hs⟩
  | pwchk => exact ⟨_, _, exec_pwchk_run hs⟩
  | pwver => exact ⟨_, _, exec_pwver_run hs⟩
  | mix => exact ⟨_, _, exec_mix_run hs⟩
  | unmix => exact ⟨_, _, exec_unmix_run hs⟩
  | benc => exact ⟨_, _, exec_benc_run hs⟩
  | bdec => exact ⟨_, _, exec_bdec_run hs⟩
  | menc => exact ⟨_, _, exec_menc_run hs⟩
  | mdec => exact ⟨_, _, exec_mdec_run hs⟩
  | ninc => exact ⟨_, _, exec_ninc_run hs⟩
  | senc _ out => cases out <;> simp [Work.atTake, Work.atEmit] at htake hemit
  | sdec _ _ out => cases out <;> simp [Work.atTake, Work.atEmit] at htake hemit
  | _ => simp [Work.atTake] at htake

/-! ### Which engine steps change the state (R282, R331) -/

theorem atTake_eq_false_of_atEmit (h : work.atEmit = true) : work.atTake = false := by
  cases work with
  | senc _ out => cases out with
    | nil => simp [Work.atEmit] at h
    | cons => rfl
  | sdec _ _ out => cases out with
    | nil => simp [Work.atEmit] at h
    | cons => rfl
  | _ => simp [Work.atEmit] at h

/-- Holding is an empty IN FIFO at `take()` or a full OUT FIFO at `emit()`. -/
theorem engineEnabled_eq_false_iff (hs : s.seq = .run c work) :
    engineEnabled s = false ↔
      (work.atTake = true ∧ s.inFifo = []) ∨ (work.atEmit = true ∧ s.params.outDepth ≤ s.outFifo.length) := by
  cases hemit : work.atEmit with
  | true => simp [engineEnabled, hs, hemit, atTake_eq_false_of_atEmit hemit]
  | false => simp [engineEnabled, hs, hemit]

theorem engineTurn_of_holding (hs : s.seq = .run c work) (h : engineEnabled s = false) : engineTurn s = .next s := by
  rw [engineTurn_run hs]
  obtain ⟨htake, hin⟩ | ⟨hemit, hout⟩ := (engineEnabled_eq_false_iff hs).1 h
  · obtain ⟨t, ht, -, hempty⟩ := exec_of_atTake hs htake
    rw [ht, hempty hin]
  · obtain ⟨f, b, out, last, ht⟩ := exec_of_atEmit hs hemit
    rw [ht, emitStep_full f b out last hout]

/-- A step that is not held shows in the IN FIFO, the OUT FIFO or the sequencer. -/
theorem engineTurn_of_enabled (hs : s.seq = .run c work) (h : engineEnabled s = true) :
    ∃ t, engineTurn s = .next t
      ∧ (t.inFifo.length < s.inFifo.length ∨ s.outFifo.length < t.outFifo.length ∨ t.seq = .idle) := by
  rw [engineTurn_run hs]
  have hfree := mt (engineEnabled_eq_false_iff hs).2 (ne_false_of_eq_true h)
  cases hemit : work.atEmit with
  | true =>
    have hroom : s.outFifo.length < s.params.outDepth := Nat.lt_of_not_le fun hout => hfree (.inr ⟨hemit, hout⟩)
    obtain ⟨f, b, out, last, ht⟩ := exec_of_atEmit hs hemit
    exact ⟨_, ht, .inr (.inl (by simp [emitStep_outFifo f b out last hroom]))⟩
  | false =>
    cases htake : work.atTake with
    | true =>
      have hin : s.inFifo ≠ [] := fun hin => hfree (.inl ⟨htake, hin⟩)
      obtain ⟨t, ht, htail, -⟩ := exec_of_atTake hs htake
      exact ⟨t, ht, .inl (by simp [htail, List.length_pos_iff.2 hin])⟩
    | false =>
      obtain ⟨code, u, ht⟩ := exec_of_not_atTake_of_not_atEmit hs htake hemit
      exact ⟨_, ht, .inr (.inr rfl)⟩

theorem engineEnabled_idle (hs : s.seq = .idle) : engineEnabled s = false := by
  simp only [engineEnabled, hs]

end

/-! ### The statements -/

/-- Settles O36: the engine step of `NOP` is `complete(0)`. -/
theorem nopOnlyCompletes : Obligations.NopOnlyCompletes := fun _ _ hs => exec_nop_run hs

/-- Settles O37: each engine step that is not held shows in the IN FIFO, the OUT FIFO or the sequencer
(`engineTurn_of_enabled`). -/
theorem holdingChangesNothing : Obligations.HoldingChangesNothing := by
  refine ⟨fun s c work hs => ⟨engineEnabled_eq_false_iff hs, engineTurn_of_holding hs, fun henabled hsame => ?_⟩,
    fun s hs => ⟨engineEnabled_idle hs, fun hturn => ?_⟩,
    fun s => ⟨fun t rest hturns => ?_, fun hturns henabled => ?_, fun hturns hheld => ?_⟩⟩
  · obtain ⟨t, ht, hchange⟩ := engineTurn_of_enabled hs henabled
    cases hsame.symm.trans ht
    simp [hs] at hchange
  · exact (step_engine hturn).trans (engineTurn_idle (s := s.popTurn) hs)
  · simp only [nextTurn, hturns]
  · simp [nextTurn, hturns, henabled]
  · simp [nextTurn, hturns, hheld]

/-- Settles O47: by register, a write is dropped, ignored, or one of `CTRL`, `STATUS` and `INPUSH`, whose effects are
bounded (`KeepsOperands`). -/
theorem writesWhileBusyKeepOperands : Obligations.WritesWhileBusyKeepOperands := by
  intro s t r v hb ht
  cases r with
  | ctrl =>
    cases ht
    refine ⟨?_, False.elim, False.elim⟩
    split
    case isTrue h => exact writeCtrl_of_srst h.2
    case isFalse h => exact writeCtrl_keepsOperands hb (eq_false_of_ne_true fun hv => h ⟨rfl, hv⟩)
  | status => cases ht; exact ⟨writeStatus_keepsOperands v s, False.elim, False.elim⟩
  | inpush => cases ht; exact ⟨pushIn_keepsOperands v s, False.elim, False.elim⟩
  | cmd => cases (writeCmd_busy hb v).symm.trans ht; exact ⟨rfl, fun _ => rfl, False.elim⟩
  | cfg | ema | kp | kq | blkcnt | sidx | blk | nonce | pwtag =>
    cases ht
    rw [guarded_busy hb]
    exact ⟨rfl, fun _ => rfl, False.elim⟩
  | _ => cases ht; exact ⟨rfl, False.elim, fun _ => rfl⟩

/-- Settles O48: by what `CTRL` does with and without SRST. -/
theorem ctrlWriteActions : Obligations.CtrlWriteActions := by
  intro s v
  refine ⟨fun hv => congrArg _ (writeCtrl_of_srst hv), fun hv => congrArg _ (writeCtrl_of_not_srst hv), ?_⟩
  exact (BitVec.setWidth_eq_append (by decide)).symm

/-- Settles O54: by which words the running command does not write, and `KVALID = 0` during `KSCHED`. -/
theorem stableReadsWhileBusy : Obligations.StableReadsWhileBusy := by
  intro s c work j hs
  exact ⟨fun h => readWord_of_not_written hs (h.imp_left writesBlk_eq_false) _,
    fun h => readWord_of_not_written hs (h.imp_left writesNonce_eq_false) _,
    fun h => readWord_of_not_written hs (h.imp_left writesPwc_eq_false) _,
    fun h => readReg_blkcnt_of_not_written hs (writesBlkcnt_eq_false h),
    rfl, rfl, rfl, rfl, rfl, rfl, rfl, rfl, rfl, fun hop hinv => readReg_key_of_ksched hinv hs hop j⟩

end Sys2Proof.Machine

/-! PROOFS. Exceptions (60_exceptions.md): an error ends a command and never stops the machine (section 1), which words and
commands fail their checks and in what order (section 2), and what a command that fails at a token leaves (sections 4
and 5). -/

namespace Sys2Proof.Machine

/-! ### No state stops the machine (section 1) -/

section
variable {s : State} {c : Cfg} {work : Work}

/-- A running command's engine step takes, emits or completes. -/
theorem exec_run_answers (hs : s.seq = .run c work) : ∃ t, exec work.op s = .next t := by
  cases htake : work.atTake with
  | true =>
    obtain ⟨t, ht, -⟩ := exec_of_atTake hs htake
    exact ⟨t, ht⟩
  | false =>
    cases hemit : work.atEmit with
    | true =>
      obtain ⟨_, _, _, _, ht⟩ := exec_of_atEmit hs hemit
      exact ⟨_, ht⟩
    | false =>
      obtain ⟨_, _, ht⟩ := exec_of_not_atTake_of_not_atEmit hs htake hemit
      exact ⟨_, ht⟩

theorem engineTurn_answers (s : State) : ∃ t, engineTurn s = .next t := by
  cases hs : s.seq with
  | idle => exact ⟨s, engineTurn_idle hs⟩
  | run c work => rw [engineTurn_run hs]; exact exec_run_answers hs

/-- An illegal `CMD` word while no command runs (30_encoding.md R115). -/
theorem writeCmd_illegal {v : Reg} {e : DecodeError} (hb : s.busy = false) (hdec : decode s.params v = .error e) :
    s.writeCmd v = .next (s.issueIllegal v) := by
  simp [State.writeCmd, hb, hdec]

theorem writeCmd_answers (v : Reg) (s : State) : ∃ t, s.writeCmd v = .next t := by
  cases hb : s.busy with
  | true => exact ⟨_, writeCmd_busy hb v⟩
  | false =>
    cases hdec : decode s.params v with
    | error e => exact ⟨_, writeCmd_illegal hb hdec⟩
    | ok i => exact ⟨_, (writeCmd_legal hb hdec).trans (exec_idle i ((busy_eq_false_iff s).1 hb))⟩

theorem writeReg_answers (r : RegName) (v : Reg) (s : State) : ∃ t, s.writeReg r v = .next t := by
  cases r with
  | cmd => exact writeCmd_answers v s
  | _ => exact ⟨_, rfl⟩

theorem hostTurn_answers (s : State) : ∃ t, hostTurn s = .next t := by
  match hhost : s.host with
  | [] => exact ⟨_, hostTurn_idle hhost⟩
  | .wr idx v :: rest => rw [hostTurn_wr hhost]; exact writeReg_answers ..
  | .rd _ :: _ => exact ⟨_, hostTurn_rd hhost⟩
  | .poll _ _ _ :: _ => exact ⟨_, hostTurn_poll hhost⟩
  | .drain _ _ :: _ => exact ⟨_, hostTurn_drain hhost⟩

end

/-! ### The checks (section 2) -/

/-- Only `MIX` and `UNMIX` depend on FAMILY (30_encoding.md R113). -/
theorem wellFormed_eq_false_iff (i : Instr) (p : Params) :
    i.wellFormed p = false ↔ (i = .mix ∨ i = .unmix) ∧ p.family = .ddr := by
  cases hf : p.family <;> cases i <;> simp [Instr.wellFormed, hf]

theorem needsCfg_iff (i : Instr) : needsCfg i = true ↔ i ≠ .nop := by cases i <;> decide

theorem needsKey_iff (i : Instr) :
    needsKey i = true ↔ i ∈ [Instr.pwchk, .pwver, .benc, .bdec, .menc, .mdec, .senc, .sdec] := by
  cases i <;> decide

/-- The opcodes R113 assigns (`opcode_mem_assignedOpcodes`). -/
def assignedOpcodes : List (BitVec 8) :=
  [0x00, 0x01, 0x02, 0x03, 0x04, 0x10, 0x11, 0x12, 0x13, 0x20, 0x21, 0x22, 0x30, 0x31]

theorem opcode_mem_assignedOpcodes (i : Instr) : i.opcode ∈ assignedOpcodes := by cases i <;> decide

theorem eq_mix_or_unmix_of_opcode {i : Instr} (h : i.opcode ∈ ([0x10, 0x11] : List (BitVec 8))) :
    i = .mix ∨ i = .unmix := by
  revert h; cases i <;> decide

/-- The three kinds of illegal word (R292, R115): none of them decodes. -/
theorem exists_decode_error {p : Params} {v : Reg}
    (h : cmdRsv v ≠ 0 ∨ cmdOp v ∉ assignedOpcodes
      ∨ (cmdOp v ∈ ([0x10, 0x11] : List (BitVec 8)) ∧ p.family = .ddr)) :
    ∃ e, decode p v = .error e := by
  cases hdec : decode p v with
  | error e => exact ⟨e, rfl⟩
  | ok i =>
    obtain ⟨hwf, rfl⟩ := (decodeAcceptsExactlyTheEncodings p v i).1 hdec
    rw [cmdRsv_encode, cmdOp_encode] at h
    obtain hrsv | hop | ⟨hop, hddr⟩ := h
    · exact absurd rfl hrsv
    · exact absurd (opcode_mem_assignedOpcodes i) hop
    · have hnot := (wellFormed_eq_false_iff i p).2 ⟨eq_mix_or_unmix_of_opcode hop, hddr⟩
      exact absurd hwf (ne_true_of_eq_false hnot)

section
variable {s : State}

/-- While no command runs, completing leaves the sequencer as it is. -/
theorem issueIllegal_eq (hs : s.seq = .idle) (v : Reg) :
    s.issueIllegal v
      = { s with cmd := v, lastop := cmdOp v, err := .cmd, done := true, incnt := 0, outcnt := 0 } := by
  simp only [State.issueIllegal, State.accept, State.complete, hs]

/-- The first check a command fails, in the order of R295. -/
theorem issueError_eq (i : Instr) (s : State) :
    issueError i s =
      if (i = .mix ∨ i = .unmix) ∧ s.params.family = .ddr then .cmd
      else if i ≠ .nop ∧ cfgValid s.params s.cfg = false then .param
      else if i ∈ [Instr.pwchk, .pwver, .benc, .bdec, .menc, .mdec, .senc, .sdec] ∧ s.kvalid = false then .noKey
      else .none := by
  simp only [issueError, ← wellFormed_eq_false_iff, ← needsCfg_iff, ← needsKey_iff, Bool.and_eq_true,
    Bool.not_eq_true']

/-- Acceptance does not change what the checks of a command read: `KSCHED`, which clears `KVALID`, needs no key. -/
theorem issueError_accepted {i : Instr} {a : State} (hp : a.params = s.params) (hc : a.cfg = s.cfg)
    (hk : a.kvalid = if i = .ksched then false else s.kvalid) : issueError i a = issueError i s := by
  have hkey : (needsKey i && !a.kvalid) = (needsKey i && !s.kvalid) := by
    by_cases hi : i = .ksched
    · subst hi; rfl
    · rw [hk, if_neg hi]
  simp only [issueError, hp, hc, hkey]

/-- Issuing a command (44_control.md R271): it starts, or completes with the first error its checks find. -/
theorem issue_eq (i : Instr) (hs : s.seq = .idle) :
    let a : State :=
      { s with
        cmd := encode i, lastop := i.opcode, err := .none, done := false, incnt := 0, outcnt := 0
        kvalid := if i = .ksched then false else s.kvalid }
    s.issue i =
      if issueError i s = .none then { a with seq := .run s.cfg (initialWork s.params s.cfg i) }
      else { a with err := issueError i s, done := true } := by
  intro a
  have herr : issueError i a = issueError i s := issueError_accepted rfl rfl rfl
  obtain ⟨hpass, heq⟩ | ⟨hfail, heq⟩ := issue_cases i s
  · rw [if_pos (herr.symm.trans hpass), heq]
  · rw [if_neg fun h => hfail (herr.trans h), heq, ← hs]
    exact congrArg (fun code => { a with err := code, done := true }) herr

/-- A command its FAMILY lacks is an illegal word (R115). -/
theorem issue_of_not_wellFormed {i : Instr} (hs : s.seq = .idle) (h : i.wellFormed s.params = false) :
    s.issue i = s.issueIllegal (encode i) := by
  have hcmd : issueError i s = .cmd := by simp [issueError, h]
  have hi : i ≠ .ksched := by
    rintro rfl
    cases h
  rw [issue_eq i hs, hcmd, issueIllegal_eq hs, cmdOp_encode, if_neg hi]
  rfl

/-- A `CMD` write of a command's encoding is the command's meaning, in either FAMILY. -/
theorem writeCmd_encode (i : Instr) (hb : s.busy = false) : s.writeCmd (encode i) = exec i s := by
  cases hwf : i.wellFormed s.params with
  | true => exact writeCmd_legal hb (by rw [decode_encode, if_pos hwf])
  | false =>
    have hs := (busy_eq_false_iff s).1 hb
    have hdec : decode s.params (encode i) = .error .notInFamily := by rw [decode_encode, hwf]; rfl
    rw [writeCmd_illegal hb hdec, exec_idle i hs, issue_of_not_wellFormed hs hwf]

end

/-- The initial working state of `KSCHED` (41_key_schedule.md R181, R183, R186, R188, R191). -/
theorem initialWork_ksched (p : Params) (c : Cfg) :
    initialWork p c .ksched =
      if p.family = .ddr then .ksDdr 0 { a := 0, b := 0, i := 0, j := 0 }
      else if c.hexkey then .ksHex (List.replicate c.n 0) [] 0
      else .ksBytes (List.replicate c.n 0) [] 0 := by
  have hzero : toRegs (zeroBlock p.bits c.n) = List.replicate c.n 0 := by simp [toRegs, zeroBlock]
  cases hf : p.family <;> simp [initialWork, hf, hzero, ddrAccInit]

/-! ### What a failing `KSCHED` leaves (section 5) -/

/-- From `s`, the state after its last take, a `KSCHED` ends with an error in `t` (R303). -/
structure KschedFails (c : Cfg) (s t : State) : Prop where
  state : t = { s with
    key := t.key, sched := t.sched, lram := t.lram, free := t.free, err := t.err, done := true, seq := .idle }
  code : t.err ∈ [ErrCode.io, .keyLen, .keyFmt]
  key : ∀ j, c.n ≤ j → t.key.getD j 0 = s.key.getD j 0

section
variable {s t u : State} {c : Cfg} {tok : Token}

theorem kschedFails_failKey {code : ErrCode} (hcode : code = .io ∨ code = .keyLen) :
    KschedFails c s (s.failKey c code) where
  state := rfl
  code := by obtain rfl | rfl := hcode <;> simp [State.failKey]
  key j hj := overlay_getD_ge _ _ _ j ((freeRegs_length ..).trans_le hj)

theorem kschedFails_keyFmt : KschedFails c s (s.complete .keyFmt) where
  state := rfl
  code := by simp
  key _ _ := rfl

theorem ksBytesStep_fails {k : List Reg} {buf : List Byte} {total : Nat} (htake : s.take = some (tok, u))
    (hs : s.err = .none) (ht : (ksBytesStep c k buf total s).err ≠ .none) :
    KschedFails c u (ksBytesStep c k buf total s) := by
  obtain ⟨rest, hin, rfl⟩ := take_some htake
  cases tok with
  | data b => rw [ksBytesStep_data hin] at ht; exact absurd hs ht
  | eof => rw [ksBytesStep_eof hin] at ht; exact absurd rfl ht
  | err => rw [ksBytesStep_failed (.inl hin)]; exact kschedFails_failKey (.inl rfl)
  | reserved => rw [ksBytesStep_failed (.inr hin)]; exact kschedFails_failKey (.inl rfl)

theorem ksHexStep_fails {k : List Reg} {nibs : List (BitVec 4)} {total : Nat} (htake : s.take = some (tok, u))
    (hs : s.err = .none) (ht : (ksHexStep c k nibs total s).err ≠ .none) :
    KschedFails c u (ksHexStep c k nibs total s) := by
  obtain ⟨rest, hin, rfl⟩ := take_some htake
  cases tok with
  | data b =>
    by_cases hb : b.toNat ≤ 0x0F
    · rw [ksHexStep_data hin hb] at ht; exact absurd hs ht
    · rw [ksHexStep_badNibble hin (Nat.lt_of_not_le hb)]; exact kschedFails_keyFmt
  | eof => rw [ksHexStep_eof hin] at ht; exact absurd rfl ht
  | err => rw [ksHexStep_failed (.inl hin)]; exact kschedFails_failKey (.inl rfl)
  | reserved => rw [ksHexStep_failed (.inr hin)]; exact kschedFails_failKey (.inl rfl)

theorem ksDdrStep_fails {n : Nat} {acc : DdrAcc} (htake : s.take = some (tok, u)) (hs : s.err = .none)
    (ht : (ksDdrStep c n acc s).err ≠ .none) :
    KschedFails c u (ksDdrStep c n acc s) := by
  obtain ⟨rest, hin, rfl⟩ := take_some htake
  cases tok with
  | data b =>
    by_cases hn : n = s.params.lMaxBytes
    · rw [ksDdrStep_tooLong hin hn]; exact kschedFails_failKey (.inr rfl)
    · rw [ksDdrStep_data hin hn] at ht; exact absurd hs ht
  | eof => rw [ksDdrStep_eof hin] at ht; exact absurd rfl ht
  | err => rw [ksDdrStep_failed (.inl hin)]; exact kschedFails_failKey (.inl rfl)
  | reserved => rw [ksDdrStep_failed (.inr hin)]; exact kschedFails_failKey (.inl rfl)

/-- The engine step of `KSCHED` that ends it with an error, in each of the three key schedules. -/
theorem exec_ksched_fails {work : Work} (hs : s.seq = .run c work) (hop : work.op = .ksched)
    (htake : s.take = some (tok, u)) (h : exec .ksched s = .next t) (ht : t.err ≠ .none) (herr : s.err = .none) :
    KschedFails c u t := by
  cases work with
  | ksBytes => cases (exec_ksBytes_run hs).symm.trans h; exact ksBytesStep_fails htake herr ht
  | ksHex => cases (exec_ksHex_run hs).symm.trans h; exact ksHexStep_fails htake herr ht
  | ksDdr => cases (exec_ksDdr_run hs).symm.trans h; exact ksDdrStep_fails htake herr ht
  | _ => cases hop

end

/-! ### ERR and reserved tokens (section 4, R298) -/

section
variable {s : State} {c : Cfg} {work : Work}

/-- A stream-reading command that is not at `emit()` is at `take()` (20_memory.md R90, R91). -/
theorem atTake_of_stream (hop : work.op ∈ [Instr.ksched, .nseed, .senc, .sdec]) (h : work.atEmit = false) :
    work.atTake = true := by
  cases work with
  | ksBytes | ksHex | ksDdr | nseed => rfl
  | senc _ out => cases out with
    | nil => rfl
    | cons => cases h
  | sdec _ _ out => cases out with
    | nil => rfl
    | cons => cases h
  | _ => exact absurd hop (by decide)

/-- Taking a token that is neither data nor EOF is `complete(IO)`; for `KSCHED` the key RAMs are then free (R303). -/
theorem exec_of_failed {rest : List Token} (hs : s.seq = .run c work) (htake : work.atTake = true)
    (hin : s.inFifo = .err :: rest ∨ s.inFifo = .reserved :: rest) :
    exec work.op s = .next (State.complete .io { s with inFifo := rest })
      ∨ exec work.op s = .next (State.failKey c .io { s with inFifo := rest }) := by
  cases work with
  | ksBytes => exact .inr ((exec_ksBytes_run hs).trans (congrArg _ (ksBytesStep_failed hin)))
  | ksHex => exact .inr ((exec_ksHex_run hs).trans (congrArg _ (ksHexStep_failed hin)))
  | ksDdr => exact .inr ((exec_ksDdr_run hs).trans (congrArg _ (ksDdrStep_failed hin)))
  | nseed => exact .inl ((exec_nseed_run hs).trans (congrArg _ (nseedStep_failed hin)))
  | senc _ out => cases out with
    | nil => exact .inl ((exec_senc_take hs).trans (congrArg _ (sencTake_failed hin)))
    | cons => cases htake
  | sdec _ _ out => cases out with
    | nil => exact .inl ((exec_sdec_take hs).trans (congrArg _ (sdecTake_failed hin)))
    | cons => cases htake
  | _ => cases htake

end

/-! ### The statements -/

/-- Settles O39: each agent's turn answers a next state. -/
theorem everyStepAnswersANextState : Obligations.EveryStepAnswersANextState := by
  intro s
  cases hturn : nextTurn s with
  | host => rw [step_host hturn]; exact hostTurn_answers _
  | engine => rw [step_engine hturn]; exact engineTurn_answers _
  | resetInput => exact ⟨s.popTurn.resetEngine, by simp only [step, hturn, takeTurn]⟩

/-- Settles O4: none of the three kinds of word decodes (`exists_decode_error`). -/
theorem illegalWordsCompleteWithCmd : Obligations.IllegalWordsCompleteWithCmd := by
  intro s v hs hillegal
  obtain ⟨e, hdec⟩ := exists_decode_error hillegal
  exact (writeCmd_illegal ((busy_eq_false_iff s).2 hs) hdec).trans (congrArg _ (issueIllegal_eq hs v))

/-- Settles O5: an issue starts the command or reports `issueError` (`issue_eq`), which looks at the checks in the order of
R295 (`issueError_eq`). -/
theorem issueRunsTheChecksInOrder : Obligations.IssueRunsTheChecksInOrder := by
  intro i s
  refine ⟨fun hb => writeCmd_busy hb _, fun hb => ?_⟩
  intro accepted failed n start
  refine ⟨writeCmd_encode i hb, ?_⟩
  have hs : s.seq = .idle := (busy_eq_false_iff s).1 hb
  have hstart : initialWork s.params s.cfg i = start := by
    cases i with
    | ksched => exact initialWork_ksched ..
    | _ => rfl
  have hissue : s.issue i = if issueError i s = .none then { accepted with seq := .run s.cfg start }
      else failed (issueError i s) := hstart ▸ issue_eq i hs
  rw [exec_idle i hs, hissue, issueError_eq]
  split
  case isTrue => rfl
  case isFalse =>
    split
    case isTrue => rfl
    case isFalse => split <;> rfl

/-- Settles O19: the key schedules fail in one way (`KschedFails`) from the state after the take. -/
theorem kschedFailureState : Obligations.KschedFailureState := by
  intro s t c work tok rest hs hop hin h ht herr
  obtain ⟨hstate, hcode, hkey⟩ := exec_ksched_fails hs hop (take_cons hin) h ht herr
  exact ⟨hstate, hcode, hkey⟩

/-- Settles O35: the step of the token is `complete(IO)` (`exec_of_failed`), and a full OUT FIFO holds an emit
(`emitStep_full`). -/
theorem errTokensEndStreamCommandsWithIo : Obligations.ErrTokensEndStreamCommandsWithIo := by
  intro s c work hs
  refine ⟨fun tok rest hop hemit htok hin => ?_, fun hemit hfull => ?_⟩
  · obtain h | h := exec_of_failed hs (atTake_of_stream hop hemit) (inFifo_failed htok hin)
    · exact ⟨_, h, rfl, rfl, rfl, rfl, rfl, rfl, rfl, rfl⟩
    · exact ⟨_, h, rfl, rfl, rfl, rfl, rfl, rfl, rfl, rfl⟩
  · obtain ⟨f, b, out, last, h⟩ := exec_of_atEmit hs hemit
    exact h.trans (congrArg _ (emitStep_full f b out last hfull))

end Sys2Proof.Machine

/-! PROOFS. Reset (70_reset_and_hazards.md section 1) and progress (section 3). A command at neither `take()` nor `emit()` ends
with its step; `KSCHED` and `NSEED` end with the first token that is not data, and go on only by taking a data token. -/

namespace Sys2Proof.Machine

/-! ### What a reset leaves (section 1) -/

/-- `STATUS` reads 0: no flag set, no error, and no command running (10_state.md R34, R59). -/
theorem statusBits_resetEngine (s : State) : statusBits s.resetEngine = 0 := by
  simp [statusBits, State.irq, State.busy, State.resetEngine, State.resetOf, ErrCode.bits]

/-- `CFG` reads 0 (10_state.md R36, R59). -/
theorem cfg_toBits_resetEngine (s : State) : s.resetEngine.cfg.toBits = 0 := by
  simp [Cfg.toBits, State.resetEngine, State.resetOf]

/-! ### The first token that is not data ends a command (section 3) -/

section
variable {s t : State} {c : Cfg} {work : Work} {tok : Token} {rest : List Token}

/-- In `t` the command `i` has ended, or it is still running and `tok`, the token it took last, was data. -/
def EndsOrTookData (c : Cfg) (i : Instr) (tok : Token) (t : State) : Prop :=
  (t.seq = .idle ∧ t.done = true) ∨ (isData tok = true ∧ ∃ work, t.seq = .run c work ∧ work.op = i)

theorem endsOrTookData_complete (i : Instr) (tok : Token) (code : ErrCode) (s : State) :
    EndsOrTookData c i tok (s.complete code) := .inl ⟨rfl, rfl⟩

theorem ksBytesStep_endsOrTookData (k : List Reg) (buf : List Byte) (total : Nat) (hin : s.inFifo = tok :: rest) :
    EndsOrTookData c .ksched tok (ksBytesStep c k buf total s) := by
  cases tok with
  | data b => rw [ksBytesStep_data hin]; exact .inr ⟨rfl, _, rfl, by split <;> rfl⟩
  | eof => rw [ksBytesStep_eof hin]; exact endsOrTookData_complete ..
  | err => rw [ksBytesStep_failed (.inl hin)]; exact endsOrTookData_complete ..
  | reserved => rw [ksBytesStep_failed (.inr hin)]; exact endsOrTookData_complete ..

theorem ksHexStep_endsOrTookData (k : List Reg) (nibs : List (BitVec 4)) (total : Nat) (hin : s.inFifo = tok :: rest) :
    EndsOrTookData c .ksched tok (ksHexStep c k nibs total s) := by
  cases tok with
  | data b =>
    by_cases hb : b.toNat ≤ 0x0F
    · rw [ksHexStep_data hin hb]; exact .inr ⟨rfl, _, rfl, by split <;> rfl⟩
    · rw [ksHexStep_badNibble hin (Nat.lt_of_not_le hb)]; exact endsOrTookData_complete ..
  | eof => rw [ksHexStep_eof hin]; exact endsOrTookData_complete ..
  | err => rw [ksHexStep_failed (.inl hin)]; exact endsOrTookData_complete ..
  | reserved => rw [ksHexStep_failed (.inr hin)]; exact endsOrTookData_complete ..

theorem ksDdrStep_endsOrTookData (n : Nat) (acc : DdrAcc) (hin : s.inFifo = tok :: rest) :
    EndsOrTookData c .ksched tok (ksDdrStep c n acc s) := by
  cases tok with
  | data b =>
    by_cases hn : n = s.params.lMaxBytes
    · rw [ksDdrStep_tooLong hin hn]; exact endsOrTookData_complete ..
    · rw [ksDdrStep_data hin hn]; exact .inr ⟨rfl, _, rfl, rfl⟩
  | eof => rw [ksDdrStep_eof hin]; exact endsOrTookData_complete ..
  | err => rw [ksDdrStep_failed (.inl hin)]; exact endsOrTookData_complete ..
  | reserved => rw [ksDdrStep_failed (.inr hin)]; exact endsOrTookData_complete ..

theorem nseedStep_endsOrTookData (buf : List Byte) (k : Nat) (hin : s.inFifo = tok :: rest) :
    EndsOrTookData c .nseed tok (nseedStep c buf k s) := by
  cases tok with
  | data b => rw [nseedStep_data hin]; exact .inr ⟨rfl, _, rfl, rfl⟩
  | eof => rw [nseedStep_eof hin]; exact endsOrTookData_complete ..
  | err => rw [nseedStep_failed (.inl hin)]; exact endsOrTookData_complete ..
  | reserved => rw [nseedStep_failed (.inr hin)]; exact endsOrTookData_complete ..

/-- A step of `KSCHED` or `NSEED` with a token queued takes it (20_memory.md R90), and goes on only after data. -/
theorem engineTurn_endsOrTookData (hs : s.seq = .run c work) (hop : work.op = .ksched ∨ work.op = .nseed)
    (hin : s.inFifo = tok :: rest) :
    ∃ t, engineTurn s = .next t ∧ t.inFifo = rest ∧ EndsOrTookData c work.op tok t := by
  have htail : s.inFifo.tail = rest := congrArg List.tail hin
  rw [engineTurn_run hs]
  cases work with
  | ksBytes =>
    exact ⟨_, exec_ksBytes_run hs, (ksBytesStep_inFifo ..).trans htail, ksBytesStep_endsOrTookData _ _ _ hin⟩
  | ksHex => exact ⟨_, exec_ksHex_run hs, (ksHexStep_inFifo ..).trans htail, ksHexStep_endsOrTookData _ _ _ hin⟩
  | ksDdr => exact ⟨_, exec_ksDdr_run hs, (ksDdrStep_inFifo ..).trans htail, ksDdrStep_endsOrTookData _ _ hin⟩
  | nseed => exact ⟨_, exec_nseed_run hs, (nseedStep_inFifo ..).trans htail, nseedStep_endsOrTookData _ _ hin⟩
  | _ => simp [Work.op] at hop

theorem engineSteps_succ (h : engineTurn s = .next t) (k : Nat) : engineSteps (k + 1) s = engineSteps k t := by
  rw [engineSteps, h]

/-- `KSCHED` and `NSEED` end at the latest with the first token that is not data: one step for each token up to it. -/
theorem exists_engineSteps_idle {toks : List Token} (hs : s.seq = .run c work)
    (hop : work.op = .ksched ∨ work.op = .nseed) (hin : s.inFifo = toks) (hend : ∃ tok ∈ toks, isData tok = false) :
    ∃ k t, k ≤ toks.length ∧ engineSteps k s = .next t ∧ t.seq = .idle ∧ t.done = true := by
  induction toks generalizing s work with
  | nil => simp at hend
  | cons tok rest ih =>
    obtain ⟨t, hstep, hrest, ⟨hidle, hdone⟩ | ⟨hdata, work', hs', hop'⟩⟩ := engineTurn_endsOrTookData hs hop hin
    · exact ⟨1, t, Nat.le_add_left .., engineSteps_succ hstep 0, hidle, hdone⟩
    · have hend' : ∃ tok ∈ rest, isData tok = false := by simpa [hdata] using hend
      obtain ⟨k, u, hk, hsteps, hidle, hdone⟩ := ih hs' (hop' ▸ hop) hrest hend'
      exact ⟨k + 1, u, Nat.succ_le_succ hk, (engineSteps_succ hstep k).trans hsteps, hidle, hdone⟩

/-- Only the four stream-reading commands stand at `take()` or `emit()` (20_memory.md R93). -/
theorem atTake_and_atEmit_eq_false (hop : work.op ∉ [Instr.ksched, .nseed, .senc, .sdec]) :
    work.atTake = false ∧ work.atEmit = false := by
  cases work with
  | ksBytes | ksHex | ksDdr | nseed | senc | sdec => simp [Work.op] at hop
  | _ => exact ⟨rfl, rfl⟩

end

/-! ### The statements -/

/-- Settles O55: the state a reset leaves is `resetEngine`, from the reset input and from SRST (`writeCtrl_of_srst`). -/
theorem resetValues : Obligations.ResetValues := by
  intro s v
  exact ⟨s.resetEngine, rfl, fun hv => congrArg _ (writeCtrl_of_srst hv), rfl, rfl, statusBits_resetEngine s, rfl,
    cfg_toBits_resetEngine s, rfl, rfl, rfl, rfl, rfl, rfl, rfl, rfl, rfl, rfl, rfl, rfl, rfl, rfl, rfl, rfl⟩

/-- Settles O38: a command at neither `take()` nor `emit()` completes with its step, and each step of `KSCHED` and `NSEED`
takes a token (`exists_engineSteps_idle`). -/
theorem commandsTerminate : Obligations.CommandsTerminate := by
  intro s c work hs
  refine ⟨fun hop => ?_, fun hop hend => exists_engineSteps_idle hs hop rfl hend⟩
  obtain ⟨htake, hemit⟩ := atTake_and_atEmit_eq_false hop
  obtain ⟨code, u, h⟩ := exec_of_not_atTake_of_not_atEmit hs htake hemit
  exact ⟨_, h, rfl, rfl⟩

end Sys2Proof.Machine
